-- ==== Sys2Proof/Word.lean ====
section
/-! DEFINITION. The widths of the hardware: bytes, 7-bit device ids, telegrams (00_scope.md R10, R11, R13). -/

namespace Sys2Proof

/-- A byte, bit 0 the least significant (R10). -/
abbrev Byte := BitVec 8

/-- A device id as a MAC assign byte or a destination byte carries it: bits 6..0 (R13, R30). -/
abbrev DevId := BitVec 7

/-- A telegram: its bytes in index order, the first at index 0 (R11). -/
abbrev Telegram := List Byte

/-- `T[i]` (R11). Every meaning that reads `T[i]` states the length guard that makes the read legal; the 0 past the end is
never what a run reads. -/
def byteAt (t : Telegram) (i : Nat) : Byte := t.getD i 0

end Sys2Proof
end

