-- ==== Sys2Proof/Syntax.lean ====
section
/-! DEFINITION. The operations of the hardware (00_scope.md R5, 30_encoding.md R114), one constructor of `Instr` for each
mnemonic of spec/opcode_table.json, the control-state enumerations that select them (10_state.md R25, R29, R35), and the
items of a stimulus script (00_scope.md R14). -/

namespace Sys2Proof

/-- `FS`, the framer state (R25). -/
inductive FramerState where
  | idle | esc1 | esc2
deriving DecidableEq, Repr, Inhabited

/-- `BS`, BusState (R29). -/
inductive BusState where
  | released | assigned | wrote | read
deriving DecidableEq, Repr, Inhabited

/-- The line parity modes (R75). -/
inductive Parity where
  | normal | mark
deriving DecidableEq, Repr, Inhabited

/-- `TXP`, the transmit phase: which bounded wait of `WriteTelegram` the worker is in (R35). -/
inductive TxPhase where
  | idle
  | echo (i : Nat)
  | echo2 (i : Nat)
  | act
deriving DecidableEq, Repr, Inhabited

/-- What `LineRead(WAIT_MS)` answers (R72). -/
inductive ReadOutcome where
  | byte (b : Byte)
  | timeout
deriving DecidableEq, Repr, Inhabited

/-- The first four bytes of a data telegram: source, destination, type and "one more byte" (R31, R99). -/
structure Header where
  src : Byte
  dst : Byte
  typ : Byte
  b3  : Byte
deriving DecidableEq, Repr, Inhabited

/-- The layouts of the decoder (R17). -/
inductive Layout where
  | ubaFast | ubaSlow | ubaWw | rcTime | rcMode | ubaErr
deriving DecidableEq, Repr, Inhabited

/-- The destination pattern of a dispatch row (R107): one exact byte, or every byte with bit 7 clear. -/
inductive DstPattern where
  | exact (d : Byte)
  | anyWrite
deriving DecidableEq, Repr, Inhabited

/-- A row of the dispatch table (R107). `sub` is the sub-type byte a plus row fixes (R109); `none` fixes nothing.
The row's minimum length is its layout's (R243). -/
structure Row where
  src    : Byte
  dst    : DstPattern
  typ    : Byte
  sub    : Option Byte
  layout : Layout
deriving DecidableEq, Repr, Inhabited

/-- Why a telegram is not decoded (R252). -/
inductive UndecodedCause where
  | unknownKey
  | readRequest
  | tooShortForLayout
  | plus (sub : Option Byte)
deriving DecidableEq, Repr, Inhabited

/-- `TX.RELEASE` calls `WriteTelegram` and goes on when that returns (R208): the two parts of the operation. -/
inductive ReleasePart where
  | call
  | finish
deriving DecidableEq, Repr, Inhabited

/-- The operations, in the order of spec/opcode_table.json. A telegram operand `t` is the whole telegram `T[0..n-1]`. -/
inductive Instr where
  | rxEsc
  | rxData (b : Byte)
  | rxLitff
  | rxMark
  | rxBadesc (y : Byte)
  | rxBreak
  | rxBreak0
  | rxBadmark (x : Byte)
  | rxTmo
  | txwByte (b : Byte)
  | txwBreak
  | tgMac (v : Byte)
  | tgLong (t : Telegram)
  | tgShort (t : Telegram)
  | macAck
  | macRel (v : Byte)
  | macAssign (id : DevId)
  | macRsvd (v : Byte)
  | dataEvent (t : Telegram)
  | dataAddr (t : Telegram)
  | dataPreempt (t : Telegram)
  | dataUnassigned (t : Telegram)
  | dataWrongsender (t : Telegram)
  | dataClassify (t : Telegram)
  | dataReadreq (t : Telegram)
  | dataWrite (t : Telegram)
  | dataBcast (t : Telegram)
  /-- `m` is `HdrMatch(T)`, "evaluated once, before `DATA.PREEMPT`" (R169). -/
  | dataReadresp (t : Telegram) (m : Bool)
  | dataInwrote (t : Telegram)
  | dataAccept (t : Telegram)
  | txInvoke
  | txPull
  | txStamp
  | txBudget
  | txAttempt
  /-- One resumption of `WriteTelegram(t, n)`; `TXP` says from which wait (R205, R35). -/
  | txWrite (t : Telegram)
  | txResult (ok : Bool)
  | txState (hdr : Header)
  | txRelease (part : ReleasePart)
  | cksum (bytes : List Byte)
  | decRecv
  | decDispatch (t : Telegram)
  | decGuard (t : Telegram) (minLen : Nat)
  | decUbaFast (t : Telegram)
  | decUbaSlow (t : Telegram)
  | decUbaWw (t : Telegram)
  | decRcTime (t : Telegram)
  | decRcMode (t : Telegram)
  | decUbaErr (t : Telegram)
  | decPlus (t : Telegram)
  | decUndecoded (t : Telegram) (cause : UndecodedCause)
  | fltOptime (v : Nat)
  | fltStarts (v : Nat)
  | fltExhaust (v : Int)
  | fltPass
  | sysStop
deriving DecidableEq, Repr, Inhabited

/-- What the line answers to one wait of the worker (R14 items `RX`, `TMO`, `AVAIL`; R76: any of them, at any wait). -/
inductive LineItem where
  /-- A raw byte is there. -/
  | rx (b : Byte)
  /-- One `LineRead` or `LineAvail` ends without a byte. -/
  | tmo
  /-- One `LineAvail` returns `true` without consuming. -/
  | avail
deriving DecidableEq, Repr, Inhabited

/-- Whose turn it is (U23) or what the environment does between two operations (R352). -/
inductive Turn where
  /-- The worker takes one step. -/
  | worker
  /-- The decoder agent takes one step. -/
  | decoder
  /-- The time input advances by `d` milliseconds (R14 item `T=n`; it never decreases, R40). -/
  | advance (d : Nat)
  /-- A producer pushes a packet to `OUTQ` (R14 item `OUTQ`). -/
  | produce (p : List Byte)
  /-- The stop input takes the value `b` (R14 item `STOP`). -/
  | stopInput (b : Bool)
  /-- The engine is started again (R330, R331). -/
  | restart
deriving DecidableEq, Repr, Inhabited

end Sys2Proof
end

