-- ==== Sys2Proof/Config.lean ====
section
/-! DEFINITION. The constants the source fixes (00_scope.md R7), the configuration record `CFG` of the parameters it
leaves open (R8), and the free values: the checksum (43_checksum.md R231) and what the environment does past the end
of the lists that State holds (20_memory.md R76, 93_implementation_defined.md U14, U23). -/

namespace Sys2Proof

/-! ## Constants (R7) -/

abbrev maxTelegram : Nat := 32
abbrev minDataLen : Nat := 6
abbrev queueDepth : Nat := 32
abbrev queueMsgMax : Nat := 32
/-- The bound of every wait on the line, in ms (R307). No rule computes with it: a wait ends with an outcome (R309). -/
abbrev waitMs : Nat := 200
abbrev budgetMs : Nat := 200
abbrev maxRetries : Nat := 5
abbrev macAckByte : Byte := 0x01
abbrev macRelLo : Byte := 0x08
abbrev macRelHi : Byte := 0x7F
abbrev broadcastId : Byte := 0x00
abbrev devLo : Byte := 0x08
abbrev escByte : Byte := 0xFF
abbrev typePlus : Byte := 0xFF
abbrev typeUbaErr : Byte := 0xBF

/-! ## Parameters (R8) -/

/-- A row of `DEVICE_TABLE` (R242): carried as configuration, consulted by no layout. -/
structure DeviceRow where
  id     : Byte
  family : String
  name   : String
  flags  : List String
deriving DecidableEq, Repr, Inhabited

/-- The configuration record `CFG` (R8). The defaults are R8's; where R8 has none (`ownId`, the filter bounds), those of
the test configuration `CFG_T` of 95_test_vectors.md. DESIGN CHOICE (unsafe), log 1: no statement rests on a default. -/
structure Cfg where
  ownId          : Byte := 0x0D
  masterId       : Byte := 0x08
  /-- `CNT_W`, `TIME_W`: widths of a realisation; the model uses naturals (R8). -/
  cntW           : Nat := 32
  timeW          : Nat := 32
  typeUbaFast    : Byte := 0x18
  typeUbaSlow    : Byte := 0x19
  typeUbaWw      : Byte := 0x34
  typeRcTime     : Byte := 0x06
  typeRcMode     : Byte := 0x3D
  /-- By default equal to `MASTER_ID` (D43). -/
  boilerId       : Byte := masterId
  thermostatId   : Byte := 0x10
  ubaErrOffModel : Nat := 4
  ubaErrOffE1    : Nat := 5
  ubaErrOffE2    : Nat := 6
  ubaErrOffE3    : Nat := 7
  plusSubtypeOff : Nat := 4
  slowOffExhaust : Option Nat := none
  optimeMin      : Nat := 0
  optimeMax      : Nat := 16000000
  optimeMaxDelta : Nat := 1440
  startsMax      : Nat := 1000000
  exhaustMax     : Int := 2500
  deviceTable    : List DeviceRow := []
  /-- Rows added to the default dispatch table: "a data-only change" (R109, R242). -/
  extraRows      : List Row := []
deriving DecidableEq, Repr, Inhabited

/-- The configuration State.reset starts with. -/
def Cfg.default : Cfg := {}

/-! ## Free values -/

namespace Config

/-- The checksum, uninterpreted: "deterministic, single-byte output" and nothing else may be assumed (R231, R232). -/
opaque checksum : List Byte → Byte

/-- Past the end of the list of turns: the next turn, unconstrained (U23, R352). Applied to `draws`. -/
opaque freeTurn : Nat → Turn

/-- Past the end of the line's answers: what a `LineRead` returns, unconstrained (R76, U14). Applied to `draws`. -/
opaque freeRead : Nat → ReadOutcome

/-- Past the end of the line's answers: what a `LineAvail` returns, unconstrained (R76, U14). Applied to `draws`. -/
opaque freeAvail : Nat → Bool

end Config

end Sys2Proof
end

