-- ==== Sys2Proof/WellFormed.lean ====
section
/-! DEFINITION. The operands each operation admits: the byte patterns and lengths of spec/opcode_table.json and of the
rule each row names. -/

namespace Sys2Proof

/-- Format `F_DATA`: 6 to 32 bytes (30_encoding.md R98). -/
def isDataLen (t : Telegram) : Bool := minDataLen ≤ t.length && t.length ≤ maxTelegram

/-- The operands of an operation are among those its rule admits. -/
def Instr.wf : Instr → Bool
  | .rxEsc => true
  | .rxData b => b != escByte
  | .rxLitff => true
  | .rxMark => true
  | .rxBadesc y => y != 0x00 && y != escByte
  | .rxBreak => true
  | .rxBreak0 => true
  | .rxBadmark x => x != 0x00
  | .rxTmo => true
  | .txwByte _ => true
  | .txwBreak => true
  | .tgMac _ => true
  | .tgLong t => 2 ≤ t.length && t.length ≤ maxTelegram
  | .tgShort t => 2 ≤ t.length && t.length < minDataLen
  | .macAck => true
  | .macRel v => macRelLo ≤ v && v ≤ macRelHi
  | .macAssign _ => true
  | .macRsvd v => v == 0x00 || (0x02 ≤ v && v ≤ 0x07)
  | .dataEvent t => isDataLen t
  | .dataAddr t => isDataLen t
  | .dataPreempt t => isDataLen t
  | .dataUnassigned t => isDataLen t
  | .dataWrongsender t => isDataLen t
  | .dataClassify t => isDataLen t
  | .dataReadreq t => isDataLen t && 0x80 ≤ byteAt t 1
  | .dataWrite t => isDataLen t && devLo ≤ byteAt t 1 && byteAt t 1 ≤ 0x7F
  | .dataBcast t => isDataLen t && byteAt t 1 == broadcastId
  | .dataReadresp t _ => isDataLen t
  | .dataInwrote t => isDataLen t
  | .dataAccept t => isDataLen t
  | .txInvoke => true
  | .txPull => true
  | .txStamp => true
  | .txBudget => true
  | .txAttempt => true
  | .txWrite t => 1 ≤ t.length && t.length ≤ maxTelegram
  | .txResult _ => true
  | .txState _ => true
  | .txRelease _ => true
  | .cksum s => 1 ≤ s.length && s.length < maxTelegram
  | .decRecv => true
  | .decDispatch t => isDataLen t
  | .decGuard t _ => isDataLen t
  | .decUbaFast t => 26 ≤ t.length && t.length ≤ maxTelegram
  | .decUbaSlow t => 19 ≤ t.length && t.length ≤ maxTelegram
  | .decUbaWw t => 19 ≤ t.length && t.length ≤ maxTelegram
  | .decRcTime t => 13 ≤ t.length && t.length ≤ maxTelegram
  | .decRcMode t => 28 ≤ t.length && t.length ≤ maxTelegram
  | .decUbaErr t => 13 ≤ t.length && t.length ≤ maxTelegram
  | .decPlus t => isDataLen t && byteAt t 2 == typePlus
  | .decUndecoded t _ => isDataLen t
  | .fltOptime v => v < 2 ^ 24
  | .fltStarts v => v < 2 ^ 24
  | .fltExhaust v => -(2 ^ 15) ≤ v && v < 2 ^ 15
  | .fltPass => true
  | .sysStop => true

end Sys2Proof
end

