-- ==== Sys2Proof/Decode.lean ====
section
/-! DEFINITION. From bytes and control state to operations, and back (30_encoding.md; the `selector`, `state` and `order`
columns of spec/opcode_table.json). The byte patterns of the table overlap: what a byte selects depends on where control
stands (R114), so the decoder takes that place, a `Point`, beside the bytes. It is total on any bytes and rejects by
name. -/

namespace Sys2Proof

/-! ## Fields of a telegram used for selection (30_encoding.md R99, R106; 45_arithmetic_and_control.md R274) -/

/-- `v[7] = 1`: an assign byte, or the read flag of a destination byte (R104, R106). -/
def bit7 (v : Byte) : Bool := v.getLsbD 7

/-- `v and 0x7F` as a 7-bit id (R106, R274). -/
def devIdOf (v : Byte) : DevId := v.setWidth 7

/-- `ValidSrc(s)` (41_arbiter.md R168). -/
def validSrc (s : Byte) : Bool := devLo ≤ s && s ≤ macRelHi

/-- `ValidDst(d)` (41_arbiter.md R168). -/
def validDst (d : Byte) : Bool := d == broadcastId || (devLo ≤ d && d ≤ macRelHi) || (0x88 : Byte) ≤ d

/-- `T[0] = POLLED` compares the whole byte with the 7-bit id; with `none` nothing is equal (R274, R172). -/
def polledIs (polled : Option DevId) (b : Byte) : Bool := polled.map (·.setWidth 8) == some b

/-! ## The dispatch table of the telegram decoder (30_encoding.md R107..R109) -/

/-- The default dispatch table (R108). -/
def defaultRows (c : Cfg) : List Row :=
  [ ⟨c.boilerId, .anyWrite, c.typeUbaFast, none, .ubaFast⟩,
    ⟨c.boilerId, .anyWrite, c.typeUbaSlow, none, .ubaSlow⟩,
    ⟨c.boilerId, .anyWrite, c.typeUbaWw, none, .ubaWw⟩,
    ⟨c.thermostatId, .anyWrite, c.typeRcTime, none, .rcTime⟩,
    ⟨c.thermostatId, .anyWrite, c.typeRcMode, none, .rcMode⟩,
    ⟨c.boilerId, .anyWrite, typeUbaErr, none, .ubaErr⟩ ]

/-- The dispatch table: the default rows, then the added ones (R242). -/
def dispatchTable (c : Cfg) : List Row := defaultRows c ++ c.extraRows

/-- `row.min_len`: the highest byte index the layout reads, plus 2; for `UBA_ERR` the source's own 13 (44_decoder.md R243). -/
def layoutMinLen : Layout → Nat
  | .ubaFast => 26
  | .ubaSlow => 19
  | .ubaWw => 19
  | .rcTime => 13
  | .rcMode => 28
  | .ubaErr => 13

/-- The sub-type byte of a plus telegram, if it lies below the checksum (R251). -/
def plusSub (c : Cfg) (t : Telegram) : Option Byte :=
  if c.plusSubtypeOff + 2 ≤ t.length then some (byteAt t c.plusSubtypeOff) else none

/-- A destination byte matches a row's destination pattern (R107). -/
def dstMatches : DstPattern → Byte → Bool
  | .exact d, b => d == b
  | .anyWrite, b => !bit7 b

/-- A row's sub-type pattern matches the sub-type of a plus telegram (R107, R109). -/
def subMatches (pat : Option Byte) (sub : Option Byte) : Bool :=
  match pat with
  | none => true
  | some b => sub == some b

/-- A row matches a telegram's key (R241; R251 for plus telegrams, where the sub-type belongs to the key). -/
def rowMatches (c : Cfg) (t : Telegram) (r : Row) : Bool :=
  r.src == byteAt t 0 && r.typ == byteAt t 2 && dstMatches r.dst (byteAt t 1) &&
    (byteAt t 2 != typePlus || subMatches r.sub (plusSub c t))

/-- The first row that matches (R107). -/
def findRow (c : Cfg) (t : Telegram) : Option Row := (dispatchTable c).find? (rowMatches c t)

/-- The operation that applies a layout (R245..R250). -/
def layoutInstr (t : Telegram) : Layout → Instr
  | .ubaFast => .decUbaFast t
  | .ubaSlow => .decUbaSlow t
  | .ubaWw => .decUbaWw t
  | .rcTime => .decRcTime t
  | .rcMode => .decRcMode t
  | .ubaErr => .decUbaErr t

/-! ## Selection at each place -/

/-- R130: the framer operation for a raw byte, by `FS`, by the byte and by `RXLEN = 0`. -/
def decodeRaw (fs : FramerState) (rxEmpty : Bool) (b : Byte) : Instr :=
  match fs with
  | .idle => if b = escByte then .rxEsc else .rxData b
  | .esc1 => if b = escByte then .rxLitff else if b = 0x00 then .rxMark else .rxBadesc b
  | .esc2 => if b = 0x00 then (if rxEmpty then .rxBreak0 else .rxBreak) else .rxBadmark b

/-- R160: the four classes of control bytes (R101..R105). -/
def decodeMac (v : Byte) : Instr :=
  if v = macAckByte then .macAck
  else if macRelLo ≤ v ∧ v ≤ macRelHi then .macRel v
  else if bit7 v then .macAssign (devIdOf v)
  else .macRsvd v

/-- R167, the case on `BS`. -/
def decodeCase (c : Cfg) (bs : BusState) (polled : Option DevId) (m : Bool) (t : Telegram) : Instr :=
  match bs with
  | .released => if byteAt t 0 ≠ c.masterId then .dataUnassigned t else .dataClassify t
  | .assigned =>
    if polledIs polled (byteAt t 0) = false ∧ byteAt t 0 ≠ c.masterId then .dataWrongsender t else .dataClassify t
  | .read => .dataReadresp t m
  | .wrote => .dataInwrote t

/-- R167, the whole order: addresses, the master's preemption, the case on `BS`. -/
def decodeEvent (c : Cfg) (bs : BusState) (polled : Option DevId) (m : Bool) (t : Telegram) : Instr :=
  if validSrc (byteAt t 0) = false ∨ validDst (byteAt t 1) = false then .dataAddr t
  else if byteAt t 0 = c.masterId ∧ m = false then .dataPreempt t
  else decodeCase c bs polled m t

/-- R173: the class of an accepted telegram, by its destination byte. -/
def decodeDest (t : Telegram) : Instr :=
  if bit7 (byteAt t 1) then .dataReadreq t
  else if devLo ≤ byteAt t 1 then .dataWrite t
  else .dataBcast t

/-- R241: what `DEC.DISPATCH` selects by the key. -/
def decodeKey (c : Cfg) (t : Telegram) : Instr :=
  if byteAt t 2 = typePlus then .decPlus t
  else
    match findRow c t with
    | none => .decUndecoded t (if bit7 (byteAt t 1) then .readRequest else .unknownKey)
    | some r => .decGuard t (layoutMinLen r.layout)

/-! ## The decoder -/

/-- Where control stands when bytes select an operation. -/
inductive Point where
  /-- The top of `WorkerStep`: one raw byte, or no byte for a time-out (R130). -/
  | raw (fs : FramerState) (rxEmpty : Bool)
  /-- A byte the engine puts on the wire under a parity mode (R97). -/
  | wire (p : Parity)
  /-- `OnTelegram`: a whole telegram, by its length (R98, R160). -/
  | telegram
  /-- `TG.MAC`: the control byte (R101..R105). -/
  | mac
  /-- `TG.LONG`: short or data, by the length (R165). -/
  | long
  /-- `DATA.EVENT`: a data telegram, by its header and the control state (R167). -/
  | event (bs : BusState) (polled : Option DevId) (m : Bool)
  /-- After `DATA.PREEMPT`: the case on `BS` (R167). -/
  | case (bs : BusState) (polled : Option DevId) (m : Bool)
  /-- `DATA.CLASSIFY`: by the destination byte (R173). -/
  | dest
  /-- `DEC.DISPATCH`: by the key (R241). -/
  | key
  /-- After `DEC.GUARD`: the layout of the key's row (R243). -/
  | layout
  /-- No byte pattern: the calling operation selects (a `null` pattern of the table). -/
  | call (i : Instr)
deriving DecidableEq, Repr, Inhabited

/-- Why bytes at a point are no operation. No telegram the framer delivers is rejected. -/
inductive Reject where
  /-- No bytes where a byte is needed. -/
  | noByte
  /-- More bytes than the point takes. -/
  | extraBytes
  /-- A marked byte other than zero: the engine writes none (R97). -/
  | markedByte
  /-- A telegram length no format has (R98). -/
  | badLength
  /-- No row of the dispatch table has this key (R107). -/
  | noRow
deriving DecidableEq, Repr, Inhabited

/-- The decoder: the operation that the bytes select at a point. -/
def decode (c : Cfg) (pt : Point) (bs : List Byte) : Except Reject Instr :=
  match pt with
  | .raw fs rxEmpty =>
    match bs with
    | [] => .ok .rxTmo
    | [b] => .ok (decodeRaw fs rxEmpty b)
    | _ => .error .extraBytes
  | .wire p =>
    match bs with
    | [] => .error .noByte
    | [b] =>
      match p with
      | .normal => .ok (.txwByte b)
      | .mark => if b = 0x00 then .ok .txwBreak else .error .markedByte
    | _ => .error .extraBytes
  | .telegram =>
    match bs with
    | [] => .error .noByte
    | [v] => .ok (.tgMac v)
    | t => if t.length ≤ maxTelegram then .ok (.tgLong t) else .error .badLength
  | .mac =>
    match bs with
    | [] => .error .noByte
    | [v] => .ok (decodeMac v)
    | _ => .error .extraBytes
  | .long =>
    if 2 ≤ bs.length ∧ bs.length ≤ maxTelegram then
      .ok (if bs.length < minDataLen then .tgShort bs else .dataEvent bs)
    else .error .badLength
  | .event b p m => if isDataLen bs then .ok (decodeEvent c b p m bs) else .error .badLength
  | .case b p m => if isDataLen bs then .ok (decodeCase c b p m bs) else .error .badLength
  | .dest => if isDataLen bs then .ok (decodeDest bs) else .error .badLength
  | .key => if isDataLen bs then .ok (decodeKey c bs) else .error .badLength
  | .layout =>
    match findRow c bs with
    | none => .error .noRow
    | some r => .ok (layoutInstr bs r.layout)
  | .call i => match bs with
    | [] => .ok i
    | _ => .error .extraBytes

/-! ## The encoder -/

/-- The bytes of an operation and a point at which they select it, from the patterns, the formats and the selectors of
spec/opcode_table.json. An operation that no byte selects is called by its caller alone. -/
def encode : Instr → Point × List Byte
  | .rxEsc => (.raw .idle false, [0xFF])
  | .rxData b => (.raw .idle false, [b])
  | .rxLitff => (.raw .esc1 false, [0xFF])
  | .rxMark => (.raw .esc1 false, [0x00])
  | .rxBadesc y => (.raw .esc1 false, [y])
  | .rxBreak => (.raw .esc2 false, [0x00])
  | .rxBreak0 => (.raw .esc2 true, [0x00])
  | .rxBadmark x => (.raw .esc2 false, [x])
  | .rxTmo => (.raw .idle false, [])
  | .txwByte b => (.wire .normal, [b])
  | .txwBreak => (.wire .mark, [0x00])
  | .tgMac v => (.telegram, [v])
  | .tgLong t => (.telegram, t)
  | .tgShort t => (.long, t)
  | .macAck => (.mac, [0x01])
  | .macRel v => (.mac, [v])
  | .macAssign id => (.mac, [0x80 ||| id.setWidth 8])
  | .macRsvd v => (.mac, [v])
  | .dataEvent t => (.long, t)
  | .dataAddr t => (.event .released none false, t)
  | .dataPreempt t => (.event .released none false, t)
  | .dataUnassigned t => (.case .released none false, t)
  | .dataWrongsender t => (.case .assigned none false, t)
  | .dataClassify t => (.case .assigned (some (devIdOf (byteAt t 0))) false, t)
  | .dataReadreq t => (.dest, t)
  | .dataWrite t => (.dest, t)
  | .dataBcast t => (.dest, t)
  | .dataReadresp t m => (.case .read none m, t)
  | .dataInwrote t => (.case .wrote none false, t)
  | .dataAccept t => (.call (.dataAccept t), [])
  | .txInvoke => (.call .txInvoke, [])
  | .txPull => (.call .txPull, [])
  | .txStamp => (.call .txStamp, [])
  | .txBudget => (.call .txBudget, [])
  | .txAttempt => (.call .txAttempt, [])
  | .txWrite t => (.call (.txWrite t), [])
  | .txResult ok => (.call (.txResult ok), [])
  | .txState h => (.call (.txState h), [])
  | .txRelease p => (.call (.txRelease p), [])
  | .cksum s => (.call (.cksum s), [])
  | .decRecv => (.call .decRecv, [])
  | .decDispatch t => (.call (.decDispatch t), [])
  | .decGuard t n => if byteAt t 2 = typePlus then (.call (.decGuard t n), []) else (.key, t)
  | .decUbaFast t => (.layout, t)
  | .decUbaSlow t => (.layout, t)
  | .decUbaWw t => (.layout, t)
  | .decRcTime t => (.layout, t)
  | .decRcMode t => (.layout, t)
  | .decUbaErr t => (.layout, t)
  | .decPlus t => (.key, t)
  | .decUndecoded t .unknownKey => (.key, t)
  | .decUndecoded t .readRequest => (.key, t)
  | .decUndecoded t .tooShortForLayout => (.call (.decUndecoded t .tooShortForLayout), [])
  | .decUndecoded t (.plus sub) => (.call (.decUndecoded t (.plus sub)), [])
  | .fltOptime v => (.call (.fltOptime v), [])
  | .fltStarts v => (.call (.fltStarts v), [])
  | .fltExhaust v => (.call (.fltExhaust v), [])
  | .fltPass => (.call .fltPass, [])
  | .sysStop => (.call .sysStop, [])

/-- The layout a telegram's key selects (R107). -/
def layoutOf (c : Cfg) (t : Telegram) : Option Layout := (findRow c t).map (·.layout)

/-- A telegram's key matches no row and is no plus key (R241). -/
def keyUnknown (c : Cfg) (t : Telegram) : Bool := byteAt t 2 != typePlus && (findRow c t).isNone

/-- The header of the telegram selects the operation at the point of its encoding: the selectors of the data events (R167,
R168) and the keys of the decoder (R107). An operation that no header selects has nothing to fit. -/
def keyFits (c : Cfg) : Instr → Bool
  | .dataAddr t => !validSrc (byteAt t 0) || !validDst (byteAt t 1)
  | .dataPreempt t => validSrc (byteAt t 0) && validDst (byteAt t 1) && byteAt t 0 == c.masterId
  | .dataUnassigned t => byteAt t 0 != c.masterId
  | .dataWrongsender t => byteAt t 0 != c.masterId
  | .dataClassify t => byteAt t 0 == c.masterId || !bit7 (byteAt t 0)
  | .decGuard t n => byteAt t 2 == typePlus || (layoutOf c t).map layoutMinLen == some n
  | .decUndecoded t .unknownKey => keyUnknown c t && !bit7 (byteAt t 1)
  | .decUndecoded t .readRequest => keyUnknown c t && bit7 (byteAt t 1)
  | .decUbaFast t => layoutOf c t == some .ubaFast
  | .decUbaSlow t => layoutOf c t == some .ubaSlow
  | .decUbaWw t => layoutOf c t == some .ubaWw
  | .decRcTime t => layoutOf c t == some .rcTime
  | .decRcMode t => layoutOf c t == some .rcMode
  | .decUbaErr t => layoutOf c t == some .ubaErr
  | _ => true

/-! ## The words of spec/opcode_table.json -/

/-- The telegram of a 24-bit key, `T[0]` the most significant byte as the table numbers it (R114); every byte above the
key is 0, up to the longest telegram. -/
def keyTelegram (w : Nat) : Telegram :=
  [BitVec.ofNat 8 (w / 65536), BitVec.ofNat 8 (w / 256), BitVec.ofNat 8 w] ++ List.replicate 29 0

/-- The operation the decoder reads from a word of spec/opcode_table.json. A 24-bit word is a decoder key (`key_bytes`
"0,1,2"). The 8-bit patterns of the table overlap, so an 8-bit word alone selects no single row; it is read as a one-byte
telegram, format `F_MAC`. DESIGN CHOICE (safe), log 7. -/
def decodeTableWord (nbits w : Nat) : Option Instr :=
  if nbits = 8 then (decode Cfg.default .mac [BitVec.ofNat 8 w]).toOption
  else if nbits = 24 then
    match decode Cfg.default .key (keyTelegram w) with
    | .ok (.decGuard t n) =>
      if n ≤ t.length then (decode Cfg.default .layout t).toOption else none
    | r => r.toOption
  else none

end Sys2Proof
end

