-- ==== Sys2Proof/Machine/State.lean ====
section
/-! DEFINITION. The state of cems-framer as plain data (10_state.md), the event records (60_exceptions.md R291), the
reasons a step can stop, and the state right after reset (R56). -/

namespace Sys2Proof.Machine

/-! ## Event records (60_exceptions.md R291) -/

/-- Cause sub-codes of `EV_MAC_ERR`. -/
inductive MacCause where
  | ackWithoutWrite | releaseWithoutAssign | assignInBadState | reservedValue
deriving DecidableEq, Repr, Inhabited

/-- Cause sub-codes of `EV_RX_FORMAT`, with `RDEXP` for a mismatch. -/
inductive FormatCause where
  | addressRange
  | readHeaderMismatch (rdexp : Header)
deriving DecidableEq, Repr, Inhabited

/-- The fields that have a filter that can reject (44_decoder.md R253..R255). -/
inductive FilteredField where
  | slowOptimeMin | slowStarts | slowExhaustTemp
deriving DecidableEq, Repr, Inhabited

/-- An event with its recorded `info` (R291). -/
inductive Event where
  | framerOverflow
  | macErr (cause : MacCause) (v : Byte) (prior : BusState)
  | rxShort (n : Nat)
  | rxFormat (cause : FormatCause) (hdr : Header)
  | rxUnassigned (src : Byte)
  | rxWrongSender (src : Byte) (polled : Option DevId)
  | rxUnexpected (src : Byte)
  | txBadPacket (len : Nat)
  | txBudget (elapsed : Nat)
  | txEchoMissing (i : Nat)
  | txEchoMismatch (i : Nat) (expected received : Byte)
  | txNoBreakAck
  | txDropped (hdr : Header)
  | decUndecoded (cause : UndecodedCause) (t : Telegram)
  | decFilterReject (field : FilteredField) (v : Int)
deriving DecidableEq, Repr, Inhabited

/-! ## The line as the engine drives it (20_memory.md R74, R75) -/

/-- One call of `LineWrite` (with the parity mode in force) or of `LineSetParity`. -/
inductive LineOp where
  | write (b : Byte) (p : Parity)
  | setParity (p : Parity)
deriving DecidableEq, Repr, Inhabited

/-! ## The worker's record (R24..R41) -/

/-- Line Framer state (R25..R28). -/
structure Framer where
  fs        : FramerState
  /-- `RXBUF[0..31]` (R26). -/
  rxbuf     : List Byte
  /-- `RXLEN`, 0..32 (R26). -/
  rxlen     : Nat
  rxovf     : Bool
  heartbeat : Option Nat
deriving DecidableEq, Repr, Inhabited

/-- Arbiter state (R29..R31). -/
structure Arbiter where
  bs     : BusState
  polled : Option DevId
  rdexp  : Header
deriving DecidableEq, Repr, Inhabited

/-- `TxAttempt` (R32..R35, R41). -/
structure TxAttempt where
  txpend  : Bool
  /-- `TXBUF[0..31]` (R33). -/
  txbuf   : List Byte
  txlen   : Nat
  retries : Nat
  txp     : TxPhase
  acqTime : Nat
deriving DecidableEq, Repr, Inhabited

/-- The nine counters, naturals in the model (R36). -/
structure Stats where
  macErr    : Nat
  rxTotal   : Nat
  rxSuccess : Nat
  rxShort   : Nat
  rxSender  : Nat
  rxFormat  : Nat
  rxCrc     : Nat
  txTotal   : Nat
  txFail    : Nat
deriving DecidableEq, Repr, Inhabited

/-- The names of the nine counters (R36). -/
inductive Counter where
  | macErr | rxTotal | rxSuccess | rxShort | rxSender | rxFormat | rxCrc | txTotal | txFail
deriving DecidableEq, Repr, Inhabited

/-! ## The result store (R44..R52): a field is `none` while its valid bit is 0 (R45) -/

/-- `REC_UBA_FAST` (R46). -/
structure RecFast where
  setpoint     : Option Nat
  boilerTemp   : Option Int
  power        : Option Nat
  status       : Option Nat
  flameCurrent : Option Nat
deriving DecidableEq, Repr, Inhabited

/-- `REC_UBA_SLOW` (R47). -/
structure RecSlow where
  starts      : Option Nat
  optimeMin   : Option Nat
  burner      : Option Bool
  blower      : Option Bool
  circPump    : Option Bool
  pump        : Option Bool
  exhaustTemp : Option Int
deriving DecidableEq, Repr, Inhabited

/-- `REC_UBA_WW` (R48). -/
structure RecWw where
  temp     : Option Int
  setpoint : Option Nat
  circPump : Option Bool
deriving DecidableEq, Repr, Inhabited

/-- `REC_RC_TIME` (R49). -/
structure RecTime where
  year   : Option Nat
  month  : Option Nat
  hour   : Option Nat
  day    : Option Nat
  minute : Option Nat
  second : Option Nat
  dow    : Option Nat
  dst    : Option Bool
deriving DecidableEq, Repr, Inhabited

/-- `REC_RC_MODE` (R50). -/
structure RecMode where
  nightSp   : Option Nat
  daySp     : Option Nat
  holidaySp : Option Nat
  mode      : Option Nat
  summerThr : Option Nat
deriving DecidableEq, Repr, Inhabited

/-- `REC_UBA_ERR` (R51). -/
structure RecErr where
  model : Option Nat
  e1    : Option Nat
  e2    : Option Nat
  e3    : Option Nat
deriving DecidableEq, Repr, Inhabited

/-- The result store (R44). -/
structure Store where
  fast : RecFast
  slow : RecSlow
  ww   : RecWw
  time : RecTime
  mode : RecMode
  err  : RecErr
deriving DecidableEq, Repr, Inhabited

/-- Every valid bit 0 (R45, R56). -/
def Store.empty : Store where
  fast := ⟨none, none, none, none, none⟩
  slow := ⟨none, none, none, none, none, none, none⟩
  ww   := ⟨none, none, none⟩
  time := ⟨none, none, none, none, none, none, none, none⟩
  mode := ⟨none, none, none, none, none⟩
  err  := ⟨none, none, none, none⟩

/-! ## Where control stands inside a call (45_arithmetic_and_control.md R276) -/

/-- A place of the worker's call structure that control has still to reach. -/
inductive Ctl where
  /-- A call of one operation. -/
  | op (i : Instr)
  /-- `OnTelegram(T, n)` (R160). -/
  | telegram (t : Telegram)
  /-- `TG.MAC` selects by the control byte (R160). -/
  | mac (v : Byte)
  /-- `TG.LONG` selects by the length (R165). -/
  | long (t : Telegram)
  /-- `DataEvent` from its first check on (R167). -/
  | event (t : Telegram) (m : Bool)
  /-- `DataEvent` from the case on `BS` on (R167). -/
  | case (t : Telegram) (m : Bool)
  /-- `DATA.CLASSIFY` selects by the destination (R173). -/
  | dest (t : Telegram)
  /-- `TxInvoke` after `TX.PULL` (R200). -/
  | pulled
  /-- `TxInvoke` after `TX.STAMP` (R200). -/
  | stamped
  /-- `TxInvoke` after `TX.BUDGET`: its report is in `wret` (R200). -/
  | budgeted
  /-- Inside `WriteTelegram(t, n)`, at the wait that `TXP` names (R205). -/
  | write (t : Telegram)
  /-- `TxInvoke` after `TX.ATTEMPT`: `ok` is in `wret` (R200). -/
  | attempted (hdr : Header)
deriving DecidableEq, Repr, Inhabited

/-- A place of the decoder agent's call structure that control has still to reach. -/
inductive DCtl where
  /-- A call of one operation. -/
  | op (i : Instr)
  /-- `DEC.DISPATCH` selects by the key (R241). -/
  | key (t : Telegram)
  /-- The layout of the key's row (R243). -/
  | layout (t : Telegram)
deriving DecidableEq, Repr, Inhabited

/-! ## The state -/

/-- Everything the spec gives the machine, the environment's inputs as lists, and the model's own bookkeeping. -/
structure State where
  /-- `CFG` (R8, R21): no step writes it. -/
  cfg     : Cfg
  frm     : Framer
  arb     : Arbiter
  tx      : TxAttempt
  stats   : Stats
  /-- `INQ`, oldest packet first (R42). -/
  inq     : List (List Byte)
  /-- `OUTQ`, oldest packet first (R43). -/
  outq    : List (List Byte)
  store   : Store
  /-- The time input (R40). -/
  now     : Nat
  /-- The input `STOP` (R39). -/
  stop    : Bool
  stopped : Bool
  /-- The line parity mode (R55). -/
  parity  : Parity
  /-- What the engine did on the line, oldest first. -/
  lineOut : List LineOp
  /-- The worker's events, oldest first (R290). -/
  wlog    : List Event
  /-- The decoder agent's events, oldest first (R290). -/
  dlog    : List Event
  /-- What the line answers to the waits to come (R76). -/
  line    : List LineItem
  /-- The turns to come (U23). -/
  turns   : List Turn
  /-- The counter the free values are applied to. -/
  draws   : Nat
  wctl    : List Ctl
  dctl    : List DCtl
  /-- The boolean the worker's last operation with a result returned (R203, R205). -/
  wret    : Bool
  /-- The verdict of the last filter (R253..R256). -/
  dret    : Bool
  /-- What the last `QPush` to `OUTQ` returned to its producer: was the packet stored (R66, log 8). -/
  pret    : Bool
  /-- The byte the last `CKSUM` returned (R230). -/
  cks     : Byte
deriving DecidableEq, Repr, Inhabited

/-! ## Reasons a step can stop -/

/-- A machine fault. The spec has none ("Fatal conditions: none in the protocol engine itself"). -/
inductive Fault where
  /-- An operation was applied to a telegram shorter than the length guard of its rule, so that it would read a byte the
  telegram does not have (R11, R64). Raised by the `DATA`, `TX.STAMP` and `DEC` operations. Safe: no run reaches it. -/
  | telegramIndex
deriving DecidableEq, Repr, Inhabited

/-- What the model gives no meaning. -/
inductive Refusal where
  /-- An instruction without a meaning yet. Raised by `exec` alone; no arm is left. Safe. -/
  | notModelled (mnemonic : String)
  /-- A configuration that breaks a constraint of R336 (U20). Raised by `step`. Safe: the spec refuses it. -/
  | badConfig
  /-- A packet of length 0 or over 32: the precondition of `QPush` is broken (R66, U16). Raised by a producer's turn and
  by `DATA.ACCEPT`. Safe: the spec refuses it. -/
  | badPacket
  /-- The bytes where control stands are no operation. Raised by `step`. Safe: no run reaches it. -/
  | rejected (r : Reject)
  /-- `TX.WRITE` resumed at a byte index the telegram does not have (R35). Safe: no run reaches it. -/
  | badPhase
deriving DecidableEq, Repr, Inhabited

/-! ## Reset -/

/-- The state after reset (R56, R330). DESIGN CHOICE (unsafe), log 5: the contents of `RXBUF`, `TXBUF`, `TXLEN`, `RDEXP`,
`ACQ_TIME` and the time input, for which the spec gives none. -/
def State.reset : State where
  cfg     := Cfg.default
  frm     := { fs := .idle, rxbuf := List.replicate 32 0, rxlen := 0, rxovf := false, heartbeat := none }
  arb     := { bs := .released, polled := none, rdexp := ⟨0, 0, 0, 0⟩ }
  tx      := { txpend := false, txbuf := List.replicate 32 0, txlen := 0, retries := 0, txp := .idle, acqTime := 0 }
  stats   := ⟨0, 0, 0, 0, 0, 0, 0, 0, 0⟩
  inq     := []
  outq    := []
  store   := Store.empty
  now     := 0
  stop    := false
  stopped := false
  parity  := .normal
  lineOut := []
  wlog    := []
  dlog    := []
  line    := []
  turns   := []
  draws   := 0
  wctl    := []
  dctl    := []
  wret    := false
  dret    := false
  pret    := false
  cks     := 0

end Sys2Proof.Machine
end

