-- ==== Sys2Proof/Machine/Operands.lean ====
section
/-! DEFINITION. How operands are assembled from telegram bytes and buffers (00_scope.md R12, 30_encoding.md R106,
45_arithmetic_and_control.md R273, R274, R278). -/

namespace Sys2Proof.Machine

/-- `be16(T,k)`: the byte at the lower index is the more significant (R12, R63). -/
def be16 (t : Telegram) (k : Nat) : Nat := (byteAt t k).toNat * 256 + (byteAt t (k + 1)).toNat

/-- `be24(T,k)` (R12). -/
def be24 (t : Telegram) (k : Nat) : Nat :=
  (byteAt t k).toNat * 65536 + (byteAt t (k + 1)).toNat * 256 + (byteAt t (k + 2)).toNat

/-- `sext_16(x)`: `x` when `x < 32768`, else `x - 65536` (R273). -/
def sext16 (x : Nat) : Int := if x < 32768 then (x : Int) else (x : Int) - 65536

/-- `T[k]` as a number. -/
def natAt (t : Telegram) (k : Nat) : Nat := (byteAt t k).toNat

/-- `T[k][n] = 1` (R106, R274). -/
def bitAt (t : Telegram) (k n : Nat) : Bool := (byteAt t k).getLsbD n

/-- `T[0..3]`. -/
def headerOf (t : Telegram) : Header := ⟨byteAt t 0, byteAt t 1, byteAt t 2, byteAt t 3⟩

/-- `v and 0x7F` as a byte (R274). -/
def maskId (v : Byte) : Byte := v &&& 0x7F

/-- The header of the response to a read request: from the addressee, to the requester, same type and byte 3 (R110). -/
def responseTo (hdr : Header) : Header := ⟨maskId hdr.dst, hdr.src, hdr.typ, hdr.b3⟩

/-- `RXBUF[0..RXLEN-1]` (R26). -/
def rxTelegram (s : State) : Telegram := s.frm.rxbuf.take s.frm.rxlen

/-- `TXBUF[0..TXLEN-1]` (R33). -/
def txTelegram (s : State) : Telegram := s.tx.txbuf.take s.tx.txlen

end Sys2Proof.Machine
end

