-- ==== Sys2Proof/Machine/Flags.lean ====
section
/-! DEFINITION. The conditions the hardware computes. It has no condition codes (10_state.md R38): these are the tests of
the arbiter (41_arbiter.md R169), of the budget (42_transmit.md R203), of the plausibility filters (44_decoder.md
R253..R256) and of the configuration (70_reset_and_hazards.md R336). -/

namespace Sys2Proof.Machine

/-- `HdrMatch(T)`: all four bytes, and only in `Read` (R169). -/
def hdrMatch (a : Arbiter) (t : Telegram) : Bool := a.bs == .read && headerOf t == a.rdexp

/-- `POLLED = OWN_ID` (R161, R163, R177). -/
def ownBus (s : State) : Bool := polledIs s.arb.polled s.cfg.ownId

/-- `Now() - ACQ_TIME` (R203, R272). -/
def elapsed (s : State) : Nat := s.now - s.tx.acqTime

/-- More than the budget: strictly more than 200 (R203). -/
def overBudget (s : State) : Bool := budgetMs < elapsed s

/-- The absolute difference of two naturals, without wrap (R273). -/
def absDiff (a b : Nat) : Nat := max a b - min a b

/-- `FLT.OPTIME` (R253): in range, and within the delta of the last accepted value, if there is one. -/
def optimeOk (c : Cfg) (last : Option Nat) (v : Nat) : Bool :=
  c.optimeMin ≤ v && v ≤ c.optimeMax &&
    match last with
    | none => true
    | some l => absDiff v l ≤ c.optimeMaxDelta

/-- `FLT.STARTS` (R254). -/
def startsOk (c : Cfg) (v : Nat) : Bool := v != 0 && v ≤ c.startsMax

/-- `FLT.EXHAUST` (R255). -/
def exhaustOk (c : Cfg) (v : Int) : Bool := v ≤ c.exhaustMax

/-! ## The configuration (R336) -/

/-- An id in 0x08..0x7F. -/
def idInRange (b : Byte) : Bool := devLo ≤ b && b ≤ macRelHi

/-- Two destination patterns match a common byte. -/
def dstOverlap : DstPattern → DstPattern → Bool
  | .exact a, .exact b => a == b
  | .exact a, .anyWrite => !bit7 a
  | .anyWrite, .exact b => !bit7 b
  | .anyWrite, .anyWrite => true

/-- Two rows that R336 does not let stand in one table: the same `(src, type)` and overlapping destination patterns. The
sub-type of a plus row plays no part. -/
def rowsOverlap (r q : Row) : Bool := r.src == q.src && r.typ == q.typ && dstOverlap r.dst q.dst

/-- No two rows of a table are such. -/
def rowsDistinct : List Row → Bool
  | [] => true
  | r :: rs => rs.all (fun q => !rowsOverlap r q) && rowsDistinct rs

/-- `SLOW_OFF_EXHAUST`, when set: 4..29, its two bytes off the fields at 4 and 12..17. -/
def exhaustOffOk (k : Nat) : Bool := 4 < k && k ≤ 29 && (k + 1 < 12 || 17 < k)

/-- An offset of the UBA error telegram: 4..11. -/
def errOffOk (k : Nat) : Bool := 4 ≤ k && k ≤ 11

/-- The configuration meets every constraint of R336. -/
def configOk (c : Cfg) : Bool :=
  idInRange c.ownId && idInRange c.masterId && c.ownId != c.masterId && rowsDistinct (dispatchTable c) &&
    errOffOk c.ubaErrOffModel && errOffOk c.ubaErrOffE1 && errOffOk c.ubaErrOffE2 && errOffOk c.ubaErrOffE3 &&
    3 ≤ c.plusSubtypeOff &&
    (match c.slowOffExhaust with
      | none => true
      | some k => exhaustOffOk k) &&
    c.optimeMin ≤ c.optimeMax

/-! ## A realisation's finite widths (R271, R272, R345); the model itself uses naturals -/

/-- `inc(c)` in a `CNT_W`-bit realisation: it saturates (R271). -/
def incSaturating (w c : Nat) : Nat := min (c + 1) (2 ^ w - 1)

/-- `Now() - ACQ_TIME` in a `TIME_W`-bit realisation: modulo `2^TIME_W` (R272). -/
def elapsedModular (w now acq : Nat) : Nat := (now + 2 ^ w - acq % 2 ^ w) % 2 ^ w

end Sys2Proof.Machine
end

