-- ==== Sys2Proof/Machine/Ops.lean ====
section
/-! DEFINITION. The named operations over the state: counters, events, calls, buffers, queues, the line, the result store
(20_memory.md R60..R76) and the stop (60_exceptions.md R312). Taking an exception is `raiseW` / `raiseD`: the hardware's
exceptions are event records, nothing is saved, no handler is entered, and there is nothing to return from (R290, R300). -/

namespace Sys2Proof.Machine

/-! ## Outcomes -/

/-- An outcome of one operation. -/
abbrev Res := Host.Outcome State Fault Refusal

/-- Go on only if the telegram has at least `k` bytes: the length guard of a rule (R11). -/
def need (k : Nat) (t : Telegram) (r : Res) : Res := if k ≤ t.length then r else .fault .telegramIndex

/-! ## Counters and events -/

/-- `inc(c)`: exact in the model (R12, R36). -/
def statsInc (c : Counter) (st : Stats) : Stats :=
  match c with
  | .macErr => { st with macErr := st.macErr + 1 }
  | .rxTotal => { st with rxTotal := st.rxTotal + 1 }
  | .rxSuccess => { st with rxSuccess := st.rxSuccess + 1 }
  | .rxShort => { st with rxShort := st.rxShort + 1 }
  | .rxSender => { st with rxSender := st.rxSender + 1 }
  | .rxFormat => { st with rxFormat := st.rxFormat + 1 }
  | .rxCrc => { st with rxCrc := st.rxCrc + 1 }
  | .txTotal => { st with txTotal := st.txTotal + 1 }
  | .txFail => { st with txFail := st.txFail + 1 }

/-- `inc(c)` on the state. -/
def count (c : Counter) (s : State) : State := { s with stats := statsInc c s.stats }

/-- `raise Ev(info)` by the worker (R290): the record is emitted and control stays in the rule. -/
def raiseW (e : Event) (s : State) : State := { s with wlog := s.wlog ++ [e] }

/-- `raise Ev(info)` by the decoder agent (R290). -/
def raiseD (e : Event) (s : State) : State := { s with dlog := s.dlog ++ [e] }

/-! ## Calls -/

/-- The worker goes to these places, in order, before it returns to its caller (R276). -/
def callW (cs : List Ctl) (s : State) : State := { s with wctl := cs ++ s.wctl }

/-- The decoder agent goes to this place next (R276, R277). -/
def callD (c : DCtl) (s : State) : State := { s with dctl := c :: s.dctl }

/-- `TxInvoke()` when `POLLED = OWN_ID` (R161, R177). -/
def invokeIfOwn (s : State) : State := if ownBus s then callW [.op .txInvoke] s else s

/-! ## Registers -/

def setFs (f : FramerState) (s : State) : State := { s with frm := { s.frm with fs := f } }

def setBs (b : BusState) (s : State) : State := { s with arb := { s.arb with bs := b } }

/-- `BS <- Released ; POLLED <- none` (R162, R170, R208). -/
def releaseBus (s : State) : State := { s with arb := { s.arb with bs := .released, polled := none } }

/-- `RDEXP <- [...] ; BS <- Read` (R174, R207). -/
def expectRead (h : Header) (s : State) : State := { s with arb := { s.arb with bs := .read, rdexp := h } }

def setTxp (p : TxPhase) (s : State) : State := { s with tx := { s.tx with txp := p } }

/-- An operation of the worker returns a boolean to its caller. -/
def returnW (b : Bool) (s : State) : State := { s with wret := b }

/-! ## The buffers -/

/-- Append a data byte, or discard it with one warning for a telegram (R131, R133). -/
def appendRx (b : Byte) (s : State) : State :=
  if s.frm.rxlen < maxTelegram then
    { s with frm := { s.frm with rxbuf := s.frm.rxbuf.set s.frm.rxlen b, rxlen := s.frm.rxlen + 1 } }
  else if s.frm.rxovf then s
  else raiseW .framerOverflow { s with frm := { s.frm with rxovf := true } }

/-- `CKSUM` leaves its result where its caller takes it (R230). -/
def computeChecksum (bytes : List Byte) (s : State) : State := { s with cks := Config.checksum bytes }

/-- `TXBUF[i] <- b` (R65). -/
def setTxByte (i : Nat) (b : Byte) (s : State) : State :=
  { s with tx := { s.tx with txbuf := s.tx.txbuf.set i b } }

/-- `TXBUF[0..len(p)-1] <- p ; TXLEN <- len(p) ; TXPEND <- 1 ; RETRIES <- 0` (R201). -/
def loadTx (p : List Byte) (s : State) : State :=
  { s with tx := { s.tx with txbuf := p ++ s.tx.txbuf.drop p.length, txlen := p.length, txpend := true, retries := 0 } }

/-- `TXPEND <- 0 ; RETRIES <- 0` (R206). -/
def dropTx (s : State) : State := { s with tx := { s.tx with txpend := false, retries := 0 } }

/-! ## The queues (R66, R67) -/

/-- A packet `QPush` admits (R66). -/
def packetOk (p : List Byte) : Bool := 1 ≤ p.length && p.length ≤ queueMsgMax

/-- `QPush(Q, p)`: was the packet stored, and the queue after it. On a full queue the new packet is lost (R66). -/
def qPush (q : List (List Byte)) (p : List Byte) : Bool × List (List Byte) :=
  if q.length < queueDepth then (true, q ++ [p]) else (false, q)

/-- `QTryRecv(Q)` (R67). -/
def qTryRecv (q : List (List Byte)) : Option (List Byte) × List (List Byte) :=
  match q with
  | [] => (none, [])
  | p :: rest => (some p, rest)

/-- `QPush(INQ, p)` by the worker, which ignores the result (R66, R179). -/
def pushIn (p : List Byte) (s : State) : State := { s with inq := (qPush s.inq p).2 }

/-- `QPush(OUTQ, p)` by a producer, which sees the result (R66). -/
def pushOut (p : List Byte) (s : State) : State :=
  { s with outq := (qPush s.outq p).2, pret := (qPush s.outq p).1 }

/-- The canonical form of what R5 calls memory: 32 bytes in each buffer, lengths within them, the queues within their
bounds (R26, R33, R42, R43). -/
def Memory.wf (s : State) : Bool :=
  s.frm.rxbuf.length == maxTelegram && s.tx.txbuf.length == maxTelegram && s.frm.rxlen ≤ maxTelegram &&
    s.tx.txlen ≤ maxTelegram && s.inq.length ≤ queueDepth && s.outq.length ≤ queueDepth &&
    s.inq.all packetOk && s.outq.all packetOk

/-! ## The line (R72..R76) -/

/-- What the line's list answers to a `LineRead`: an `AVAIL` item answers a `LineAvail` only and is passed over (R14).
`none` where the list is at its end. DESIGN CHOICE (safe), log 4. -/
def readItems : List LineItem → Option (ReadOutcome × List LineItem)
  | [] => none
  | .rx b :: l => some (.byte b, l)
  | .tmo :: l => some (.timeout, l)
  | .avail :: l => readItems l

/-- `LineRead(WAIT_MS)` (R72): consuming. Past the end of the list the outcome is a free value (R76). -/
def lineRead (s : State) : ReadOutcome × State :=
  match readItems s.line with
  | some (o, l) => (o, { s with line := l })
  | none => (Config.freeRead s.draws, { s with line := [], draws := s.draws + 1 })

/-- `LineAvail(WAIT_MS)` (R73): a raw byte that is there stays there. Past the end a free value (R76). -/
def lineAvail (s : State) : Bool × State :=
  match s.line with
  | .rx _ :: _ => (true, s)
  | .tmo :: l => (false, { s with line := l })
  | .avail :: l => (true, { s with line := l })
  | [] => (Config.freeAvail s.draws, { s with draws := s.draws + 1 })

/-- `LineWrite(b)` under the parity mode in force (R74). -/
def lineWrite (b : Byte) (s : State) : State := { s with lineOut := s.lineOut ++ [.write b s.parity] }

/-- `LineSetParity(p)` (R75). -/
def lineSetParity (p : Parity) (s : State) : State := { s with parity := p, lineOut := s.lineOut ++ [.setParity p] }

/-! ## The transmit loop (R205) -/

/-- `WriteTelegram` goes to its byte `i`, or past the last byte to the BREAK and the wait for line activity. -/
def writeFrom (t : Telegram) (i : Nat) (s : State) : State :=
  match t[i]? with
  | some b => callW [.op (.txwByte b), .write t] (setTxp (.echo i) s)
  | none => callW [.op .txwBreak, .write t] (setTxp .act s)

/-- `raise Ev ; return false` of the echo verifier. -/
def writeFails (e : Event) (s : State) : State := returnW false (raiseW e s)

/-! ## Stop (R312) -/

/-- The worker abandons whatever is in progress and is stopped. -/
def stopWorker (s : State) : State := { setTxp .idle s with stopped := true, wctl := [] }

/-! ## The result store (R70) -/

/-- A field of an update, or the stored one where the update has none (R70). -/
def updated {α : Type} (new old : Option α) : Option α :=
  match new with
  | some v => some v
  | none => old

def commitFast (u : RecFast) (s : State) : State :=
  let r := s.store.fast
  { s with store := { s.store with fast :=
    ⟨updated u.setpoint r.setpoint, updated u.boilerTemp r.boilerTemp, updated u.power r.power, updated u.status r.status,
      updated u.flameCurrent r.flameCurrent⟩ } }

def commitSlow (u : RecSlow) (s : State) : State :=
  let r := s.store.slow
  { s with store := { s.store with slow :=
    ⟨updated u.starts r.starts, updated u.optimeMin r.optimeMin, updated u.burner r.burner, updated u.blower r.blower,
      updated u.circPump r.circPump, updated u.pump r.pump, updated u.exhaustTemp r.exhaustTemp⟩ } }

def commitWw (u : RecWw) (s : State) : State :=
  let r := s.store.ww
  { s with store := { s.store with ww :=
    ⟨updated u.temp r.temp, updated u.setpoint r.setpoint, updated u.circPump r.circPump⟩ } }

def commitTime (u : RecTime) (s : State) : State :=
  let r := s.store.time
  { s with store := { s.store with time :=
    ⟨updated u.year r.year, updated u.month r.month, updated u.hour r.hour, updated u.day r.day, updated u.minute r.minute,
      updated u.second r.second, updated u.dow r.dow, updated u.dst r.dst⟩ } }

def commitMode (u : RecMode) (s : State) : State :=
  let r := s.store.mode
  { s with store := { s.store with mode :=
    ⟨updated u.nightSp r.nightSp, updated u.daySp r.daySp, updated u.holidaySp r.holidaySp, updated u.mode r.mode,
      updated u.summerThr r.summerThr⟩ } }

def commitErr (u : RecErr) (s : State) : State :=
  let r := s.store.err
  { s with store := { s.store with err :=
    ⟨updated u.model r.model, updated u.e1 r.e1, updated u.e2 r.e2, updated u.e3 r.e3⟩ } }

/-! ## Filters (R244) -/

/-- A filter gives its verdict on a candidate; a reject is reported (R244). -/
def applyFilter (accept : Bool) (f : FilteredField) (v : Int) (s : State) : State :=
  let s := { s with dret := accept }
  if accept then s else raiseD (.decFilterReject f v) s

/-- `FLT.OPTIME` (R253). -/
def filterOptime (v : Nat) (s : State) : State :=
  applyFilter (optimeOk s.cfg s.store.slow.optimeMin v) .slowOptimeMin v s

/-- `FLT.STARTS` (R254). -/
def filterStarts (v : Nat) (s : State) : State := applyFilter (startsOk s.cfg v) .slowStarts v s

/-- `FLT.EXHAUST` (R255). -/
def filterExhaust (v : Int) (s : State) : State := applyFilter (exhaustOk s.cfg v) .slowExhaustTemp v s

/-- `FLT.PASS`: `accept := true` (R256). -/
def filterPass (s : State) : State := { s with dret := true }

/-- A candidate is part of the update if its filter accepted it (R244). -/
def ifAccepted {α : Type} (s : State) (v : α) : Option α := if s.dret then some v else none

/-! ## The time input, the start -/

/-- `Now()` (R40). -/
def nowOf (s : State) : Nat := s.now

/-- An engine start: every state element of R56 at its reset value; the configuration, the time and the environment's
lists and records stay (R330, R331, R335). -/
def restart (s : State) : State :=
  { State.reset with
    cfg := s.cfg, now := s.now, line := s.line, turns := s.turns, draws := s.draws,
    lineOut := s.lineOut, wlog := s.wlog, dlog := s.dlog }

end Sys2Proof.Machine
end

