-- ==== Sys2Proof/Machine/Arbiter.lean ====
section
/-! DEFINITION. The Bus Arbitration State Machine (41_arbiter.md R160..R179). -/

namespace Sys2Proof.Machine

/-- A MAC event in a state its row marks invalid is counted and reported; the transition is made all the same (D13). -/
def macCheck (valid : Bool) (cause : MacCause) (v : Byte) (s : State) : State :=
  if valid then s else count .macErr (raiseW (.macErr cause v s.arb.bs) s)

/-! ## Dispatch by length -/

/-- `TG.MAC` (R160): the control byte selects. -/
def execTgMac (v : Byte) (s : State) : Res := .next (callW [.mac v] s)

/-- `TG.LONG` (R165). -/
def execTgLong (t : Telegram) (s : State) : Res := .next (callW [.long t] (count .rxTotal s))

/-- `TG.SHORT` (R166). -/
def execTgShort (t : Telegram) (s : State) : Res := .next (count .rxShort (raiseW (.rxShort t.length) s))

/-! ## MAC control events -/

/-- `MAC.ACK` (R161). -/
def execMacAck (s : State) : Res :=
  .next (invokeIfOwn (setBs .assigned (macCheck (s.arb.bs == .wrote) .ackWithoutWrite macAckByte s)))

/-- `MAC.REL` (R162): the id is not compared with `POLLED`. -/
def execMacRel (v : Byte) (s : State) : Res :=
  .next (releaseBus (macCheck (s.arb.bs == .assigned) .releaseWithoutAssign v s))

/-- `MAC.ASSIGN` (R163). -/
def execMacAssign (id : DevId) (s : State) : Res :=
  let v : Byte := 0x80 ||| id.setWidth 8
  let s1 := macCheck (s.arb.bs == .released || s.arb.bs == .assigned) .assignInBadState v s
  let s2 := { s1 with arb := { s1.arb with bs := .assigned, polled := some id } }
  if ownBus s2 then .next (callW [.op .txInvoke] { s2 with tx := { s2.tx with acqTime := nowOf s2 } })
  else .next s2

/-- `MAC.RSVD` (R164). -/
def execMacRsvd (v : Byte) (s : State) : Res :=
  .next (count .macErr (raiseW (.macErr .reservedValue v s.arb.bs) s))

/-! ## Data events -/

/-- `DATA.EVENT` (R167): `HdrMatch` is evaluated once, on the `BS` the telegram found (R169). -/
def execDataEvent (t : Telegram) (s : State) : Res :=
  need minDataLen t (.next (callW [.event t (hdrMatch s.arb t)] s))

/-- `DATA.ADDR` (R168). -/
def execDataAddr (t : Telegram) (s : State) : Res :=
  need minDataLen t (.next (count .rxFormat (raiseW (.rxFormat .addressRange (headerOf t)) s)))

/-- `DATA.PREEMPT` (R170): the bus is released and the handling goes on with the case on `BS`. The header did not match. -/
def execDataPreempt (t : Telegram) (s : State) : Res :=
  need minDataLen t (.next (callW [.case t false] (releaseBus s)))

/-- `DATA.UNASSIGNED` (R171). -/
def execDataUnassigned (t : Telegram) (s : State) : Res :=
  need minDataLen t (.next (count .rxSender (raiseW (.rxUnassigned (byteAt t 0)) s)))

/-- `DATA.WRONGSENDER` (R172). -/
def execDataWrongsender (t : Telegram) (s : State) : Res :=
  need minDataLen t (.next (count .rxSender (raiseW (.rxWrongSender (byteAt t 0) s.arb.polled) s)))

/-- `DATA.CLASSIFY` (R173): by the destination, then `DATA.ACCEPT`. -/
def execDataClassify (t : Telegram) (s : State) : Res :=
  need minDataLen t (.next (callW [.dest t, .op (.dataAccept t)] s))

/-- `DATA.READREQ` (R174). -/
def execDataReadreq (t : Telegram) (s : State) : Res :=
  need minDataLen t (.next (expectRead (responseTo (headerOf t)) s))

/-- `DATA.WRITE` (R175). -/
def execDataWrite (t : Telegram) (s : State) : Res := need minDataLen t (.next (setBs .wrote s))

/-- `DATA.BCAST` (R176): `BS` unchanged. -/
def execDataBcast (t : Telegram) (s : State) : Res := need minDataLen t (.next s)

/-- `DATA.READRESP` (R177). -/
def execDataReadresp (t : Telegram) (m : Bool) (s : State) : Res :=
  need minDataLen t
    (if m then .next (callW [.op (.dataAccept t)] (invokeIfOwn (setBs .assigned s)))
    else .next (setBs .assigned (count .rxFormat (raiseW (.rxFormat (.readHeaderMismatch s.arb.rdexp) (headerOf t)) s))))

/-- `DATA.INWROTE` (R178). -/
def execDataInwrote (t : Telegram) (s : State) : Res :=
  need minDataLen t (.next (count .rxSender (raiseW (.rxUnexpected (byteAt t 0)) s)))

/-- `DATA.ACCEPT` (R179): counted, and pushed with the result of `QPush` ignored. -/
def execDataAccept (t : Telegram) (s : State) : Res :=
  if packetOk t then .next (pushIn t (count .rxSuccess s)) else .refused .badPacket

end Sys2Proof.Machine
end

