-- ==== Sys2Proof/Machine/Checksum.lean ====
section
/-! DEFINITION. The checksum contract (43_checksum.md R230..R233). -/

namespace Sys2Proof.Machine

/-- `CKSUM` (R230): a function of the bytes alone; the byte it returns is in `cks`. -/
def execCksum (bytes : List Byte) (s : State) : Res := .next (computeChecksum bytes s)

end Sys2Proof.Machine
end

