-- ==== Sys2Proof/Machine/Decoder.lean ====
section
/-! DEFINITION. The Telegram Decoder (44_decoder.md R240..R252). A layout computes the candidates in the order of its rule,
applies each field's filter, and commits the accepted ones at once (R244). -/

namespace Sys2Proof.Machine

/-- `DEC.RECV` (R240): one packet of `INQ`; one shorter than 6 is dropped silently. -/
def execDecRecv (s : State) : Res :=
  match qTryRecv s.inq with
  | (none, _) => .next s
  | (some p, q) =>
    if p.length < minDataLen then .next { s with inq := q }
    else .next (callD (.op (.decDispatch p)) { s with inq := q })

/-- `DEC.DISPATCH` (R241): the key selects. -/
def execDecDispatch (t : Telegram) (s : State) : Res := need minDataLen t (.next (callD (.key t) s))

/-- `DEC.GUARD` (R243). -/
def execDecGuard (t : Telegram) (minLen : Nat) (s : State) : Res :=
  if t.length < minLen then .next (callD (.op (.decUndecoded t .tooShortForLayout)) s)
  else .next (callD (.layout t) s)

/-- `DEC.UBA_FAST` (R245). -/
def execDecUbaFast (t : Telegram) (s : State) : Res :=
  need 26 t (.next (commitFast
    { setpoint := some (natAt t 10),
      boilerTemp := some (sext16 (be16 t 11)),
      power := some (natAt t 14),
      status := some (natAt t 15),
      flameCurrent := some (be16 t 23) } (filterPass s)))

/-- The optional exhaust field of R246: both bytes below the checksum. -/
def exhaustCandidate (c : Cfg) (t : Telegram) : Option Int :=
  match c.slowOffExhaust with
  | none => none
  | some k => if k + 2 < t.length then some (sext16 (be16 t k)) else none

/-- `DEC.UBA_SLOW` (R246). -/
def execDecUbaSlow (t : Telegram) (s : State) : Res :=
  let s1 := filterStarts (be24 t 12) s
  let starts := ifAccepted s1 (be24 t 12)
  let s2 := filterOptime (be24 t 15) s1
  let optime := ifAccepted s2 (be24 t 15)
  let s3 := filterPass s2
  let s4 := match exhaustCandidate s.cfg t with
    | none => s3
    | some v => filterExhaust v s3
  let exhaust := match exhaustCandidate s.cfg t with
    | none => none
    | some v => ifAccepted s4 v
  need 19 t (.next (commitSlow
    { starts := starts,
      optimeMin := optime,
      burner := some (bitAt t 4 2),
      blower := some (bitAt t 4 1),
      circPump := some (bitAt t 4 7),
      pump := some (bitAt t 4 5),
      exhaustTemp := exhaust } s4))

/-- `DEC.UBA_WW` (R247). -/
def execDecUbaWw (t : Telegram) (s : State) : Res :=
  need 19 t (.next (commitWw
    { temp := some (sext16 (be16 t 5)),
      setpoint := some (natAt t 4),
      circPump := some (bitAt t 17 2) } (filterPass s)))

/-- `DEC.RC_TIME` (R248): no field is range-checked. -/
def execDecRcTime (t : Telegram) (s : State) : Res :=
  need 13 t (.next (commitTime
    { year := some (2000 + natAt t 4),
      month := some (natAt t 5),
      hour := some (natAt t 6),
      day := some (natAt t 7),
      minute := some (natAt t 8),
      second := some (natAt t 9),
      dow := some (natAt t 10),
      dst := some (byteAt t 11 != 0) } (filterPass s)))

/-- `DEC.RC_MODE` (R249). -/
def execDecRcMode (t : Telegram) (s : State) : Res :=
  need 28 t (.next (commitMode
    { nightSp := some (natAt t 5),
      daySp := some (natAt t 6),
      holidaySp := some (natAt t 7),
      mode := some (natAt t 11),
      summerThr := some (natAt t 26) } (filterPass s)))

/-- `DEC.UBA_ERR` (R250): the offsets are parameters, 4..11 in a configuration that R336 admits. -/
def execDecUbaErr (t : Telegram) (s : State) : Res :=
  let c := s.cfg
  need (max 13 (max (max c.ubaErrOffModel c.ubaErrOffE1) (max c.ubaErrOffE2 c.ubaErrOffE3) + 2)) t (.next (commitErr
    { model := some (natAt t c.ubaErrOffModel),
      e1 := some (natAt t c.ubaErrOffE1),
      e2 := some (natAt t c.ubaErrOffE2),
      e3 := some (natAt t c.ubaErrOffE3) } (filterPass s)))

/-- `DEC.PLUS` (R251): the row of the table, if it has one for this key and sub-type; the default table has none. -/
def execDecPlus (t : Telegram) (s : State) : Res :=
  need minDataLen t
    (match findRow s.cfg t with
    | none => .next (callD (.op (.decUndecoded t (.plus (plusSub s.cfg t)))) s)
    | some r => .next (callD (.op (.decGuard t (layoutMinLen r.layout))) s))

/-- `DEC.UNDECODED` (R252): reported with every byte; the result store is not touched. -/
def execDecUndecoded (t : Telegram) (cause : UndecodedCause) (s : State) : Res :=
  .next (raiseD (.decUndecoded cause t) s)

end Sys2Proof.Machine
end

