-- ==== Sys2Proof/Machine/Filters.lean ====
section
/-! DEFINITION. The plausibility filters as operations (44_decoder.md R253..R256): each gives its verdict in `dret`; the
layouts of Machine/Decoder.lean use the same filters. -/

namespace Sys2Proof.Machine

/-- `FLT.OPTIME` (R253). -/
def execFltOptime (v : Nat) (s : State) : Res := .next (filterOptime v s)

/-- `FLT.STARTS` (R254). -/
def execFltStarts (v : Nat) (s : State) : Res := .next (filterStarts v s)

/-- `FLT.EXHAUST` (R255). -/
def execFltExhaust (v : Int) (s : State) : Res := .next (filterExhaust v s)

/-- `FLT.PASS` (R256). -/
def execFltPass (s : State) : Res := .next (filterPass s)

end Sys2Proof.Machine
end

