-- ==== Sys2Proof/Machine/Framer.lean ====
section
/-! DEFINITION. The Line Framer (40_framer.md R131..R141): what each raw byte does, and the two writes to the line. -/

namespace Sys2Proof.Machine

/-- `RX.DATA` (R131). -/
def execRxData (b : Byte) (s : State) : Res := .next (setFs .idle (appendRx b s))

/-- `RX.ESC` (R132). -/
def execRxEsc (s : State) : Res := .next (setFs .esc1 s)

/-- `RX.LITFF` (R133): as `RX.DATA` with 0xFF. -/
def execRxLitff (s : State) : Res := .next (setFs .idle (appendRx escByte s))

/-- `RX.MARK` (R134). -/
def execRxMark (s : State) : Res := .next (setFs .esc2 s)

/-- `RX.BADESC` (R135): both raw bytes are dropped. -/
def execRxBadesc (_y : Byte) (s : State) : Res := .next (setFs .idle s)

/-- `RX.BREAK` (R136): the telegram is complete; the framer is reset before the arbiter runs. -/
def execRxBreak (s : State) : Res :=
  .next (callW [.telegram (rxTelegram s)]
    { s with frm := { s.frm with rxlen := 0, rxovf := false, fs := .idle, heartbeat := some (nowOf s) } })

/-- `RX.BREAK0` (R139): no telegram. -/
def execRxBreak0 (s : State) : Res := .next (setFs .idle s)

/-- `RX.BADMARK` (R137): the three raw bytes are dropped. -/
def execRxBadmark (_x : Byte) (s : State) : Res := .next (setFs .idle s)

/-- `RX.TMO` (R138): nothing changes. -/
def execRxTmo (s : State) : Res := .next s

/-- `TXW.BYTE` (R140): the byte as it is, under parity `Normal`. Between operations the parity is `Normal` (R55). -/
def execTxwByte (b : Byte) (s : State) : Res := .next (lineWrite b s)

/-- `TXW.BREAK` (R141): the three calls with nothing between them. -/
def execTxwBreak (s : State) : Res := .next (lineSetParity .normal (lineWrite 0x00 (lineSetParity .mark s)))

end Sys2Proof.Machine
end

