-- ==== Sys2Proof/Machine/System.lean ====
section
/-! DEFINITION. The cooperative stop (60_exceptions.md R312). -/

namespace Sys2Proof.Machine

/-- `SYS.STOP` (R312), executed where the worker samples `STOP = 1`. -/
def execSysStop (s : State) : Res := .next (stopWorker s)

end Sys2Proof.Machine
end

