-- ==== Sys2Proof/Machine/Transmit.lean ====
section
/-! DEFINITION. The Transmit Engine (42_transmit.md R200..R208). `TxInvoke` goes through the places `pulled`, `stamped`,
`budgeted` and `attempted` of `Ctl`; what it does there is `Sys2Proof.Machine.ctlPoint` in Machine/Fetch.lean. -/

namespace Sys2Proof.Machine

/-- `TX.INVOKE` (R200). -/
def execTxInvoke (s : State) : Res := .next (callW [.op .txPull, .pulled] s)

/-- `TX.PULL` (R201): acts only when nothing is pending; at most one packet leaves `OUTQ`. -/
def execTxPull (s : State) : Res :=
  if s.tx.txpend then .next s
  else
    match qTryRecv s.outq with
    | (none, _) => .next s
    | (some p, q) =>
      if minDataLen ≤ p.length then .next (loadTx p { s with outq := q })
      else .next (raiseW (.txBadPacket p.length) { s with outq := q })

/-- `TX.STAMP` (R202): the checksum covers the stamped source byte. -/
def execTxStamp (s : State) : Res :=
  let s1 := setTxByte 0 s.cfg.ownId s
  let s2 := computeChecksum ((txTelegram s1).take (s.tx.txlen - 1)) s1
  need minDataLen (txTelegram s) (.next (setTxByte (s.tx.txlen - 1) s2.cks s2))

/-- `TX.BUDGET` (R203): the report is `wret`, true when over budget. -/
def execTxBudget (s : State) : Res :=
  if overBudget s then .next (returnW true (raiseW (.txBudget (elapsed s)) s)) else .next (returnW false s)

/-- `TX.ATTEMPT` (R204). -/
def execTxAttempt (s : State) : Res := .next (callW [.write (txTelegram s)] (count .txTotal s))

/-- `TX.WRITE` (R205): from one wait of `WriteTelegram(t, n)` to the next, `TXP` naming the wait. After each wait `STOP` is
sampled before the outcome is examined (R312). The result is `wret`. -/
def execTxWrite (t : Telegram) (s : State) : Res :=
  match s.tx.txp with
  | .idle => .next (writeFrom t 0 s)
  | .echo i =>
    match t[i]? with
    | none => .refused .badPhase
    | some b =>
      let (e, s1) := lineRead s
      if s1.stop then .next (stopWorker s1)
      else
        match e with
        | .timeout => .next (writeFails (.txEchoMissing i) s1)
        | .byte x =>
          if x ≠ b then .next (writeFails (.txEchoMismatch i b x) s1)
          else if b = escByte then .next (callW [.write t] (setTxp (.echo2 i) s1))
          else .next (writeFrom t (i + 1) s1)
  | .echo2 i =>
    let (e, s1) := lineRead s
    if s1.stop then .next (stopWorker s1)
    else
      match e with
      | .timeout => .next (writeFails (.txEchoMissing i) s1)
      | .byte x =>
        if x ≠ escByte then .next (writeFails (.txEchoMismatch i escByte x) s1)
        else .next (writeFrom t (i + 1) s1)
  | .act =>
    let (ok, s1) := lineAvail s
    if s1.stop then .next (stopWorker s1)
    else if ok then .next (returnW true s1)
    else .next (writeFails .txNoBreakAck s1)

/-- `TX.RESULT(ok)` (R206). -/
def execTxResult (ok : Bool) (s : State) : Res :=
  if ok then .next (dropTx s)
  else if maxRetries < s.tx.retries + 1 then
    .next (dropTx (count .txFail (raiseW (.txDropped (headerOf (txTelegram s))) s)))
  else .next { s with tx := { s.tx with retries := s.tx.retries + 1 } }

/-- `TX.STATE(hdr)` (R207), and the last line of `TxInvoke`, `TXP <- TX_IDLE` (R200). -/
def execTxState (hdr : Header) (s : State) : Res :=
  let s1 :=
    if bit7 hdr.dst then expectRead ⟨maskId hdr.dst, s.cfg.ownId, hdr.typ, hdr.b3⟩ s
    else if devLo ≤ hdr.dst then setBs .wrote s
    else s
  .next (setTxp .idle s1)

/-- `TX.RELEASE` (R208): `WriteTelegram([OWN_ID], 1)`; when it returns, its result ignored, the bus is released. -/
def execTxRelease (part : ReleasePart) (s : State) : Res :=
  match part with
  | .call => .next (callW [.write [s.cfg.ownId], .op (.txRelease .finish)] s)
  | .finish => .next (setTxp .idle (releaseBus s))

end Sys2Proof.Machine
end

