-- ==== Sys2Proof/Machine/Dispatch.lean ====
section
/-! DEFINITION. The meaning of each operation, one arm for each constructor. -/

namespace Sys2Proof.Machine

def exec (i : Instr) (s : State) : Host.Outcome State Fault Refusal :=
  match i with
  | .rxEsc => Sys2Proof.Machine.execRxEsc s
  | .rxData b => Sys2Proof.Machine.execRxData b s
  | .rxLitff => Sys2Proof.Machine.execRxLitff s
  | .rxMark => Sys2Proof.Machine.execRxMark s
  | .rxBadesc y => Sys2Proof.Machine.execRxBadesc y s
  | .rxBreak => Sys2Proof.Machine.execRxBreak s
  | .rxBreak0 => Sys2Proof.Machine.execRxBreak0 s
  | .rxBadmark x => Sys2Proof.Machine.execRxBadmark x s
  | .rxTmo => Sys2Proof.Machine.execRxTmo s
  | .txwByte b => Sys2Proof.Machine.execTxwByte b s
  | .txwBreak => Sys2Proof.Machine.execTxwBreak s
  | .tgMac v => Sys2Proof.Machine.execTgMac v s
  | .tgLong t => Sys2Proof.Machine.execTgLong t s
  | .tgShort t => Sys2Proof.Machine.execTgShort t s
  | .macAck => Sys2Proof.Machine.execMacAck s
  | .macRel v => Sys2Proof.Machine.execMacRel v s
  | .macAssign id => Sys2Proof.Machine.execMacAssign id s
  | .macRsvd v => Sys2Proof.Machine.execMacRsvd v s
  | .dataEvent t => Sys2Proof.Machine.execDataEvent t s
  | .dataAddr t => Sys2Proof.Machine.execDataAddr t s
  | .dataPreempt t => Sys2Proof.Machine.execDataPreempt t s
  | .dataUnassigned t => Sys2Proof.Machine.execDataUnassigned t s
  | .dataWrongsender t => Sys2Proof.Machine.execDataWrongsender t s
  | .dataClassify t => Sys2Proof.Machine.execDataClassify t s
  | .dataReadreq t => Sys2Proof.Machine.execDataReadreq t s
  | .dataWrite t => Sys2Proof.Machine.execDataWrite t s
  | .dataBcast t => Sys2Proof.Machine.execDataBcast t s
  | .dataReadresp t m => Sys2Proof.Machine.execDataReadresp t m s
  | .dataInwrote t => Sys2Proof.Machine.execDataInwrote t s
  | .dataAccept t => Sys2Proof.Machine.execDataAccept t s
  | .txInvoke => Sys2Proof.Machine.execTxInvoke s
  | .txPull => Sys2Proof.Machine.execTxPull s
  | .txStamp => Sys2Proof.Machine.execTxStamp s
  | .txBudget => Sys2Proof.Machine.execTxBudget s
  | .txAttempt => Sys2Proof.Machine.execTxAttempt s
  | .txWrite t => Sys2Proof.Machine.execTxWrite t s
  | .txResult ok => Sys2Proof.Machine.execTxResult ok s
  | .txState hdr => Sys2Proof.Machine.execTxState hdr s
  | .txRelease part => Sys2Proof.Machine.execTxRelease part s
  | .cksum bytes => Sys2Proof.Machine.execCksum bytes s
  | .decRecv => Sys2Proof.Machine.execDecRecv s
  | .decDispatch t => Sys2Proof.Machine.execDecDispatch t s
  | .decGuard t minLen => Sys2Proof.Machine.execDecGuard t minLen s
  | .decUbaFast t => Sys2Proof.Machine.execDecUbaFast t s
  | .decUbaSlow t => Sys2Proof.Machine.execDecUbaSlow t s
  | .decUbaWw t => Sys2Proof.Machine.execDecUbaWw t s
  | .decRcTime t => Sys2Proof.Machine.execDecRcTime t s
  | .decRcMode t => Sys2Proof.Machine.execDecRcMode t s
  | .decUbaErr t => Sys2Proof.Machine.execDecUbaErr t s
  | .decPlus t => Sys2Proof.Machine.execDecPlus t s
  | .decUndecoded t cause => Sys2Proof.Machine.execDecUndecoded t cause s
  | .fltOptime v => Sys2Proof.Machine.execFltOptime v s
  | .fltStarts v => Sys2Proof.Machine.execFltStarts v s
  | .fltExhaust v => Sys2Proof.Machine.execFltExhaust v s
  | .fltPass => Sys2Proof.Machine.execFltPass s
  | .sysStop => Sys2Proof.Machine.execSysStop s

end Sys2Proof.Machine
end

