-- ==== Sys2Proof/Machine/Fetch.lean ====
section
/-! DEFINITION. What the step reads to find its next operation: whose turn it is, where control stands, and the bytes there
(40_framer.md R130, 42_transmit.md R200, 44_decoder.md R240, 60_exceptions.md R312). -/

namespace Sys2Proof.Machine

/-- The place a pending call of the worker selects at, the bytes there, and what is left of the calling operation. -/
def ctlPoint (s : State) : Ctl → Point × List Byte × List Ctl
  | .op i => (.call i, [], [])
  | .telegram t => (.telegram, t, [])
  | .mac v => (.mac, [v], [])
  | .long t => (.long, t, [])
  | .event t m => (.event s.arb.bs s.arb.polled m, t, [])
  | .case t m => (.case s.arb.bs s.arb.polled m, t, [])
  | .dest t => (.dest, t, [])
  -- `if TXPEND = 0: TX.RELEASE ; return`, else `TX.STAMP` (R200)
  | .pulled => if s.tx.txpend then (.call .txStamp, [], [.stamped]) else (.call (.txRelease .call), [], [])
  | .stamped => (.call .txBudget, [], [.budgeted])
  -- over budget: `TX.RELEASE ; return`; else `hdr <- TXBUF[0..3] ; ok <- TX.ATTEMPT` (R200)
  | .budgeted =>
    if s.wret then (.call (.txRelease .call), [], [])
    else (.call .txAttempt, [], [.attempted (headerOf (txTelegram s))])
  | .write t => (.call (.txWrite t), [], [])
  -- `TX.RESULT(ok) ; TX.STATE(hdr)` (R200)
  | .attempted hdr => (.call (.txResult s.wret), [], [.op (.txState hdr)])

/-- The place a pending call of the decoder agent selects at, and the bytes there. -/
def dctlPoint : DCtl → Point × List Byte
  | .op i => (.call i, [])
  | .key t => (.key, t)
  | .layout t => (.layout, t)

/-- The bytes of one `LineRead`: one raw byte, or none for a time-out (R130). -/
def outcomeBytes : ReadOutcome → List Byte
  | .byte b => [b]
  | .timeout => []

/-- The turn to come. Past the end of the list it is a free value (U23). -/
def takeTurn (s : State) : Turn × State :=
  match s.turns with
  | t :: ts => (t, { s with turns := ts })
  | [] => (Config.freeTurn s.draws, { s with draws := s.draws + 1 })

/-- What the worker runs in its turn, and the state it runs it in: a pending call; at the top of `WorkerStep`, `SYS.STOP`
if `STOP = 1`, else the framer operation that `LineRead` and `FS` select (R130). -/
def workerFetch (s : State) : Except Reject Instr × State :=
  match s.wctl with
  | c :: rest =>
    let (pt, bs, cont) := ctlPoint s c
    (decode s.cfg pt bs, { s with wctl := cont ++ rest })
  | [] =>
    if s.stop then (.ok .sysStop, s)
    else
      let (o, s1) := lineRead s
      (decode s.cfg (.raw s.frm.fs (s.frm.rxlen == 0)) (outcomeBytes o), s1)

/-- What the decoder agent runs in its turn: a pending call, or `DEC.RECV` (R240, R277). -/
def decoderFetch (s : State) : Except Reject Instr × State :=
  match s.dctl with
  | c :: rest =>
    let (pt, bs) := dctlPoint c
    (decode s.cfg pt bs, { s with dctl := rest })
  | [] => (.ok .decRecv, s)

/-- Run what was fetched. -/
def runFetched (f : Except Reject Instr × State) : Res :=
  match f.1 with
  | .ok i => exec i f.2
  | .error r => .refused (.rejected r)

/-- One turn of the worker. Once `STOPPED = 1` it has no step (R312). -/
def workerTurn (s : State) : Res := if s.stopped then .next s else runFetched (workerFetch s)

/-- One turn of the decoder agent. It is not stopped by `STOP` (R312). -/
def decoderTurn (s : State) : Res := runFetched (decoderFetch s)

/-- What a turn does. -/
def runTurn (t : Turn) (s : State) : Res :=
  match t with
  | .worker => workerTurn s
  | .decoder => decoderTurn s
  | .advance d => .next { s with now := s.now + d }
  | .produce p => if packetOk p then .next (pushOut p s) else .refused .badPacket
  | .stopInput b => .next { s with stop := b }
  | .restart => .next (restart s)

/-- One step of the machine: a configuration that R336 excludes is refused (U20); else the turn to come is taken. -/
def stepTurn (s : State) : Res :=
  if configOk s.cfg then runTurn (takeTurn s).1 (takeTurn s).2 else .refused .badConfig

/-- The state in which the very next step runs the operation `decodeTableWord` reads from the word: the worker has the
turn and stands at a control byte, or the decoder agent has it and stands at a telegram with the key. The numbers of the
table are those of the default configuration. A stopped worker would have no step. -/
def placeWord (s : State) (nbits w : Nat) : State :=
  if nbits = 8 then
    { s with cfg := Cfg.default, stopped := false, turns := .worker :: s.turns,
             wctl := .mac (BitVec.ofNat 8 w) :: s.wctl }
  else if nbits = 24 then
    let t := keyTelegram w
    let c : DCtl := match decodeKey Cfg.default t with
      | .decGuard _ _ => .layout t
      | _ => .key t
    { s with cfg := Cfg.default, turns := .decoder :: s.turns, dctl := c :: s.dctl }
  else s

end Sys2Proof.Machine
end

