-- ==== Sys2Proof/Machine/Step.lean ====
section
/-! DEFINITION. The step of the machine, and the place of a word of the opcode table. -/

namespace Sys2Proof.Machine

/-- One step (R79, U23): one turn, and in a turn of an agent one operation. -/
def step (s : State) : Host.Outcome State Fault Refusal := stepTurn s

/-- `s` with a word of spec/opcode_table.json placed where the next step fetches (log 7). -/
def State.withFetchWord (s : State) (nbits w : Nat) : State := placeWord s nbits w

end Sys2Proof.Machine
end

