-- ==== Sys2Proof/Machine/Events.lean ====
section
/-! DEFINITION. The code, the severity and the counter of each event, and the cause sub-codes (60_exceptions.md R291). -/

namespace Sys2Proof.Machine

/-- The severities (R291). -/
inductive Severity where
  | warning | error
deriving DecidableEq, Repr, Inhabited

/-- `code(Ev)` (R291). -/
def eventCode : Event → BitVec 8
  | .framerOverflow => 0x01
  | .macErr _ _ _ => 0x10
  | .rxShort _ => 0x20
  | .rxFormat _ _ => 0x21
  | .rxUnassigned _ => 0x22
  | .rxWrongSender _ _ => 0x23
  | .rxUnexpected _ => 0x24
  | .txBadPacket _ => 0x30
  | .txBudget _ => 0x31
  | .txEchoMissing _ => 0x32
  | .txEchoMismatch _ _ _ => 0x33
  | .txNoBreakAck => 0x34
  | .txDropped _ => 0x35
  | .decUndecoded _ _ => 0x40
  | .decFilterReject _ _ => 0x41

/-- `severity(Ev)` (R291). -/
def eventSeverity : Event → Severity
  | .framerOverflow => .warning
  | .txBudget _ => .warning
  | .decFilterReject _ _ => .warning
  | .macErr _ _ _ => .error
  | .rxShort _ => .error
  | .rxFormat _ _ => .error
  | .rxUnassigned _ => .error
  | .rxWrongSender _ _ => .error
  | .rxUnexpected _ => .error
  | .txBadPacket _ => .error
  | .txEchoMissing _ => .error
  | .txEchoMismatch _ _ _ => .error
  | .txNoBreakAck => .error
  | .txDropped _ => .error
  | .decUndecoded _ _ => .error

/-- The counter written next to the `raise`, if any (R290, R291). -/
def eventCounter : Event → Option Counter
  | .macErr _ _ _ => some .macErr
  | .rxShort _ => some .rxShort
  | .rxFormat _ _ => some .rxFormat
  | .rxUnassigned _ => some .rxSender
  | .rxWrongSender _ _ => some .rxSender
  | .rxUnexpected _ => some .rxSender
  | .txDropped _ => some .txFail
  | .framerOverflow => none
  | .txBadPacket _ => none
  | .txBudget _ => none
  | .txEchoMissing _ => none
  | .txEchoMismatch _ _ _ => none
  | .txNoBreakAck => none
  | .decUndecoded _ _ => none
  | .decFilterReject _ _ => none

/-- The cause sub-code of an event that has one (R291). -/
def eventCause : Event → Option Nat
  | .macErr .ackWithoutWrite _ _ => some 1
  | .macErr .releaseWithoutAssign _ _ => some 2
  | .macErr .assignInBadState _ _ => some 3
  | .macErr .reservedValue _ _ => some 4
  | .rxFormat .addressRange _ => some 1
  | .rxFormat (.readHeaderMismatch _) _ => some 2
  | .decUndecoded .unknownKey _ => some 1
  | .decUndecoded .readRequest _ => some 2
  | .decUndecoded .tooShortForLayout _ => some 3
  | .decUndecoded (.plus _) _ => some 4
  | .framerOverflow => none
  | .rxShort _ => none
  | .rxUnassigned _ => none
  | .rxWrongSender _ _ => none
  | .rxUnexpected _ => none
  | .txBadPacket _ => none
  | .txBudget _ => none
  | .txEchoMissing _ => none
  | .txEchoMismatch _ _ _ => none
  | .txNoBreakAck => none
  | .txDropped _ => none
  | .decFilterReject _ _ => none

end Sys2Proof.Machine
end

