-- ==== Sys2Proof/Machine/Reference.lean ====
section
/-! DEFINITION. The functions and tables the spec gives beside its operations, in its own terms: the reference function
`Frame` of the framer (40_framer.md R143), the tables of resulting states (41_arbiter.md R181, R182), the line of the
assumption `ECHO_LINE` (20_memory.md R77), and the pseudo-items of a script (00_scope.md R14). No step calls them. -/

namespace Sys2Proof.Machine

/-! ## Pseudo-items (R14) -/

/-- `BRK`: the line's presentation of a BREAK. -/
def itemsBrk : List LineItem := [.rx 0xFF, .rx 0x00, .rx 0x00]

/-- `LIT_FF`. -/
def itemsLitFf : List LineItem := [.rx 0xFF, .rx 0xFF]

/-- `POLL id`. -/
def itemsPoll (id : DevId) : List LineItem := .rx (0x80 ||| id.setWidth 8) :: itemsBrk

/-- `REL id`. -/
def itemsRel (id : Byte) : List LineItem := .rx id :: itemsBrk

/-- `ACK`. -/
def itemsAck : List LineItem := .rx 0x01 :: itemsBrk

/-! ## `ECHO_LINE` (R77) -/

/-- What the line delivers for bytes written under `Normal` parity: each byte, 0xFF doubled. -/
def echoItems (t : Telegram) : List LineItem :=
  t.flatMap (fun b => if b = escByte then itemsLitFf else [.rx b])

/-- `count_FF(t)` (R205, R209). -/
def countFf (t : Telegram) : Nat := t.countP (· == escByte)

/-- The line operations of one successful `WriteTelegram(t, n)` (R209). -/
def wireTelegram (t : Telegram) : List LineOp :=
  t.map (fun b => .write b .normal) ++ [.setParity .mark, .write 0x00 .mark, .setParity .normal]

/-- The operations the worker runs in one successful `WriteTelegram(t, n)` under `ECHO_LINE`. -/
def writeSteps (t : Telegram) : Nat := 3 + 2 * t.length + countFf t

/-! ## `Frame` (R143) -/

/-- The wire symbols of R91..R95. -/
inductive WireSymbol where
  | data (b : Byte)
  | litFf
  | brk
  | badMark (x : Byte)
  | badEsc (y : Byte)
deriving DecidableEq, Repr, Inhabited

/-- The parse of a raw byte sequence into wire symbols, left to right; an incomplete symbol at the end is none (R96). -/
def wireSymbols : List Byte → List WireSymbol
  | [] => []
  | [b] => if b = escByte then [] else [.data b]
  | [b, y] =>
    if b ≠ escByte then .data b :: wireSymbols [y]
    else if y = escByte then [.litFf]
    else if y = 0x00 then []
    else [.badEsc y]
  | b :: y :: x :: r =>
    if b ≠ escByte then .data b :: wireSymbols (y :: x :: r)
    else if y = escByte then .litFf :: wireSymbols (x :: r)
    else if y = 0x00 then (if x = 0x00 then .brk else .badMark x) :: wireSymbols r
    else .badEsc y :: wireSymbols (x :: r)

/-- Split at `BREAK`, malformed symbols deleted; the unterminated tail is no piece. `acc` is the piece so far. -/
def piecesFrom (acc : List Byte) : List WireSymbol → List (List Byte)
  | [] => []
  | .data b :: r => piecesFrom (acc ++ [b]) r
  | .litFf :: r => piecesFrom (acc ++ [escByte]) r
  | .brk :: r => acc :: piecesFrom [] r
  | .badMark _ :: r => piecesFrom acc r
  | .badEsc _ :: r => piecesFrom acc r

/-- `Frame`: from a raw byte sequence to the telegrams it carries (R143). -/
def frameRef (raw : List Byte) : List Telegram :=
  ((piecesFrom [] (wireSymbols raw)).filter (fun p => !p.isEmpty)).map (List.take maxTelegram)

/-- The framer alone over raw bytes: each byte's operation is executed, and a completed telegram is taken from the call it
makes. -/
def framerTelegrams (s : State) : List Byte → Option (List Telegram)
  | [] => some []
  | b :: bs =>
    match exec (decodeRaw s.frm.fs (s.frm.rxlen == 0) b) s with
    | .next s' =>
      match s'.wctl with
      | .telegram t :: _ => (framerTelegrams { s' with wctl := [] } bs).map (t :: ·)
      | _ => framerTelegrams s' bs
    | _ => none

/-! ## The tables of resulting states -/

/-- The four classes of control bytes (R101..R104). -/
inductive MacClass where
  | ack | release | assign (id : DevId) | reserved
deriving DecidableEq, Repr, Inhabited

/-- The class of a control byte, by the ranges of R101..R104. -/
def macClass (v : Byte) : MacClass :=
  if v = 0x01 then .ack
  else if v.toNat < 0x08 then .reserved
  else if v.toNat < 0x80 then .release
  else .assign (BitVec.ofNat 7 (v.toNat - 0x80))

/-- R181: is the event a MAC error in this prior state, and the new `BS` and `POLLED`. -/
def macTable (k : MacClass) (bs : BusState) (polled : Option DevId) : Bool × BusState × Option DevId :=
  match k, bs with
  | .ack, .wrote => (false, .assigned, polled)
  | .ack, _ => (true, .assigned, polled)
  | .release, .assigned => (false, .released, none)
  | .release, _ => (true, .released, none)
  | .assign id, .released => (false, .assigned, some id)
  | .assign id, .assigned => (false, .assigned, some id)
  | .assign id, _ => (true, .assigned, some id)
  | .reserved, b => (true, b, polled)

/-- The cause a MAC error of each class is reported with (R161..R164). -/
def macClassCause : MacClass → MacCause
  | .ack => .ackWithoutWrite
  | .release => .releaseWithoutAssign
  | .assign _ => .assignInBadState
  | .reserved => .reservedValue

/-- The new `BS` of an accepted telegram by its class: `Read`, `Wrote`, or unchanged for a broadcast (R173, R182). -/
def classState (dst : Byte) (unchanged : BusState) : BusState :=
  if 0x80 ≤ dst.toNat then .read else if 0x08 ≤ dst.toNat then .wrote else unchanged

/-- R182: the counter that moves, the new `BS`, the new `POLLED`, and whether the telegram is accepted, for a data telegram
with valid addresses. `m` is `HdrMatch(T)`. -/
def dataTable (master : Byte) (a : Arbiter) (m : Bool) (t : Telegram) : Counter × BusState × Option DevId × Bool :=
  let src := byteAt t 0
  let dst := byteAt t 1
  match a.bs with
  | .released =>
    if src = master then (.rxSuccess, classState dst .released, none, true)
    else (.rxSender, .released, a.polled, false)
  | .assigned =>
    if src = master then (.rxSuccess, classState dst .released, none, true)
    else if polledIs a.polled src then (.rxSuccess, classState dst .assigned, a.polled, true)
    else (.rxSender, .assigned, a.polled, false)
  | .read =>
    if m then (.rxSuccess, .assigned, a.polled, true)
    else if src = master then (.rxSuccess, classState dst .released, none, true)
    else (.rxFormat, .assigned, a.polled, false)
  | .wrote =>
    if src = master then (.rxSuccess, classState dst .released, none, true)
    else (.rxSender, .wrote, a.polled, false)

end Sys2Proof.Machine
end

