-- ==== Sys2Proof/Safety.lean ====
section
/-! DEFINITION. What counts as a safe state and a safe run: the invariants the spec derives (10_state.md R30, R37;
20_memory.md O8 of 95_test_vectors.md; 40_framer.md R144; 41_arbiter.md R184), the places of the call structure a run
reaches (45_arithmetic_and_control.md R276), and the ownership of the state (60_exceptions.md R306). -/

namespace Sys2Proof.Machine

/-! ## Where the worker can stand (R276) -/

/-- The engine holds the bus: `BS = Assigned` and `POLLED = OWN_ID` (R184). -/
def holdsBus (s : State) : Bool := s.arb.bs == .assigned && ownBus s

/-- What waits for `WriteTelegram` to return: an attempt, or a release reply. -/
def writeCallerOk : List Ctl → Bool
  | [.attempted _] => true
  | [.op (.txRelease .finish)] => true
  | _ => false

/-- The phase of `WriteTelegram` fits its telegram: inside a wait, the byte index is one the telegram has (R35). -/
def phaseFits (p : TxPhase) (t : Telegram) : Bool :=
  match p with
  | .idle => true
  | .echo i => i < t.length
  | .echo2 i => i < t.length
  | .act => true

/-- The stacks of pending calls a run reaches, with what holds of the state at each. -/
def wctlOk (s : State) : Bool :=
  match s.wctl with
  | [] => s.tx.txp == .idle
  | [.telegram t] => s.tx.txp == .idle && packetOk t
  | [.mac _] => s.tx.txp == .idle
  | [.long t] => s.tx.txp == .idle && 2 ≤ t.length && t.length ≤ maxTelegram
  | [.event t m] => s.tx.txp == .idle && isDataLen t && m == hdrMatch s.arb t
  | [.case t m] => s.tx.txp == .idle && isDataLen t && !m && s.arb.bs == .released && byteAt t 0 == s.cfg.masterId
  | [.dest t, .op (.dataAccept u)] => s.tx.txp == .idle && isDataLen t && u == t
  | [.op (.dataAccept t)] => s.tx.txp == .idle && isDataLen t
  | [.op (.dataAccept t), .op .txInvoke] => s.tx.txp == .idle && isDataLen t && holdsBus s
  | [.op .txInvoke] => s.tx.txp == .idle && holdsBus s
  | [.op .txPull, .pulled] => s.tx.txp == .idle && holdsBus s
  | [.pulled] => s.tx.txp == .idle && holdsBus s
  | [.stamped] => s.tx.txp == .idle && holdsBus s && s.tx.txpend
  | [.budgeted] => s.tx.txp == .idle && holdsBus s && s.tx.txpend
  | .write t :: k => packetOk t && phaseFits s.tx.txp t && writeCallerOk k && holdsBus s &&
      (k == [.op (.txRelease .finish)] || s.tx.txpend)
  | .op (.txwByte _) :: .write t :: k => packetOk t && phaseFits s.tx.txp t && writeCallerOk k && holdsBus s &&
      (k == [.op (.txRelease .finish)] || s.tx.txpend)
  | .op .txwBreak :: .write t :: k => packetOk t && phaseFits s.tx.txp t && writeCallerOk k && holdsBus s &&
      (k == [.op (.txRelease .finish)] || s.tx.txpend)
  | [.attempted _] => holdsBus s && s.tx.txpend
  | [.op (.txState _)] => holdsBus s
  | [.op (.txRelease .finish)] => holdsBus s
  | _ => false

/-- The stacks of pending calls of the decoder agent a run reaches. -/
def dctlOk (s : State) : Bool :=
  match s.dctl with
  | [] => true
  | [.op (.decDispatch t)] => isDataLen t
  | [.key t] => isDataLen t
  | [.layout t] => isDataLen t &&
      match findRow s.cfg t with
      | none => false
      | some r => layoutMinLen r.layout ≤ t.length
  | [.op (.decUndecoded t _)] => isDataLen t
  | [.op (.decGuard t n)] => isDataLen t &&
      match findRow s.cfg t with
      | none => false
      | some r => n == layoutMinLen r.layout
  | _ => false

/-- A telegram that `rx_total` has counted and whose outcome is still to come. -/
def rxPending (cs : List Ctl) : Nat :=
  cs.countP (fun c => match c with
    | .long _ => true
    | .event _ _ => true
    | .case _ _ => true
    | .op (.dataAccept _) => true
    | _ => false)

/-- A write attempt that `tx_total` has counted and whose result is still to come. -/
def txPending (cs : List Ctl) : Nat :=
  cs.countP (fun c => match c with
    | .attempted _ => true
    | _ => false)

/-! ## The invariants -/

/-- The number fits the width its field has (R46..R51). -/
def fits (o : Option Nat) (bound : Nat) : Bool :=
  match o with
  | none => true
  | some v => v < bound

/-- The number is a signed 16-bit value. -/
def fits16 (o : Option Int) : Bool :=
  match o with
  | none => true
  | some v => -32768 ≤ v && v ≤ 32767

/-- Every field of the result store is within its width (R273); the two filtered counters within their bounds, the exhaust
temperature below its ceiling (R253..R255); the year in 2000..2255. -/
def storeOk (c : Cfg) (st : Store) : Bool :=
  fits st.fast.setpoint 256 && fits16 st.fast.boilerTemp && fits st.fast.power 256 && fits st.fast.status 256 &&
    fits st.fast.flameCurrent 65536 &&
    fits st.slow.starts 16777216 && fits st.slow.optimeMin 16777216 && fits16 st.slow.exhaustTemp &&
    fits16 st.ww.temp && fits st.ww.setpoint 256 &&
    (match st.time.year with
      | none => true
      | some y => 2000 ≤ y && y ≤ 2255) &&
    fits st.time.month 256 && fits st.time.hour 256 && fits st.time.day 256 && fits st.time.minute 256 &&
    fits st.time.second 256 && fits st.time.dow 256 &&
    fits st.mode.nightSp 256 && fits st.mode.daySp 256 && fits st.mode.holidaySp 256 && fits st.mode.mode 256 &&
    fits st.mode.summerThr 256 &&
    fits st.err.model 256 && fits st.err.e1 256 && fits st.err.e2 256 && fits st.err.e3 256 &&
    (match st.slow.starts with
      | none => true
      | some v => startsOk c v) &&
    (match st.slow.optimeMin with
      | none => true
      | some v => optimeOk c none v) &&
    (match st.slow.exhaustTemp with
      | none => true
      | some v => exhaustOk c v)

/-- What holds of every state a run reaches. -/
structure Inv (s : State) : Prop where
  /-- R336. -/
  config : configOk s.cfg = true
  /-- The buffers and queues keep their form. -/
  mem : Memory.wf s = true
  /-- "The length in INQ is 6..32" (R111). -/
  inqData : s.inq.all isDataLen = true
  /-- `BS = Released` implies `POLLED = none` (R30). -/
  releasedUnpolled : s.arb.bs = .released → s.arb.polled = none
  /-- `TXLEN` is 6..32 when `TXPEND = 1` (R33). -/
  txLength : s.tx.txpend = true → minDataLen ≤ s.tx.txlen
  /-- `RETRIES` is 0..5, and 0 whenever `TXPEND = 0` (R34). -/
  retries : s.tx.retries ≤ maxRetries ∧ (s.tx.txpend = false → s.tx.retries = 0)
  /-- The line parity is `Normal` between operations (R55). -/
  parity : s.parity = .normal
  /-- `ACQ_TIME` and `HEARTBEAT` are earlier readings of the time input (R272, R28). -/
  times : s.tx.acqTime ≤ s.now ∧ ∀ h, s.frm.heartbeat = some h → h ≤ s.now
  /-- A discarded byte means a full buffer (R27). -/
  overflow : s.frm.rxovf = true → s.frm.rxlen = maxTelegram
  /-- Inside `OnTelegram` the framer is at rest (R144). -/
  framerAtRest : s.wctl ≠ [] → s.frm.fs = .idle ∧ s.frm.rxlen = 0 ∧ s.frm.rxovf = false
  /-- The pending calls are those of R276, and `TXP` is `TX_IDLE` outside an invocation (R35, R184). -/
  worker : wctlOk s = true
  decoder : dctlOk s = true
  /-- A stopped worker has nothing pending (R312). -/
  stopped : s.stopped = true → s.wctl = []
  /-- R37, with the telegram whose outcome is still to come. -/
  rxSum : s.stats.rxTotal =
    s.stats.rxSuccess + s.stats.rxShort + s.stats.rxSender + s.stats.rxFormat + rxPending s.wctl
  /-- No checksum is verified on receive (R37, R180). -/
  rxCrc : s.stats.rxCrc = 0
  /-- Every dropped telegram took six attempts (R206). A stop may leave an attempt without a result. -/
  txSum : 6 * s.stats.txFail + s.tx.retries + txPending s.wctl ≤ s.stats.txTotal
  store : storeOk s.cfg s.store = true

/-! ## Admitted configurations -/

/-- A configuration meets every constraint of R336, in R336's own terms. -/
def ConfigAdmitted (c : Cfg) : Prop :=
  (8 ≤ c.ownId.toNat ∧ c.ownId.toNat ≤ 127) ∧ (8 ≤ c.masterId.toNat ∧ c.masterId.toNat ≤ 127) ∧
  c.ownId ≠ c.masterId ∧
  (dispatchTable c).Pairwise (fun r q => ¬(r.src = q.src ∧ r.typ = q.typ ∧
    ∃ b, dstMatches r.dst b = true ∧ dstMatches q.dst b = true)) ∧
  (∀ k ∈ [c.ubaErrOffModel, c.ubaErrOffE1, c.ubaErrOffE2, c.ubaErrOffE3], 4 ≤ k ∧ k ≤ 11) ∧
  3 ≤ c.plusSubtypeOff ∧
  (∀ k, c.slowOffExhaust = some k → 4 ≤ k ∧ k ≤ 29 ∧ ∀ b, (b = k ∨ b = k + 1) → b ≠ 4 ∧ (b < 12 ∨ 17 < b)) ∧
  c.optimeMin ≤ c.optimeMax

/-! ## Safe outcomes, ownership -/

/-- A step is safe if it answers a next state, or refuses only what the spec refuses: a packet a producer may not push
(U16). -/
def SafeOutcome : Res → Prop
  | .next _ => True
  | .refused .badPacket => True
  | _ => False

/-- Nothing of the worker's record, of the line or of the inputs differs (R306). -/
def SameWorker (s t : State) : Prop :=
  t.frm = s.frm ∧ t.arb = s.arb ∧ t.tx = s.tx ∧ t.stats = s.stats ∧ t.outq = s.outq ∧ t.stopped = s.stopped ∧
    t.parity = s.parity ∧ t.lineOut = s.lineOut ∧ t.wlog = s.wlog ∧ t.line = s.line ∧ t.wctl = s.wctl ∧
    t.wret = s.wret ∧ t.cks = s.cks ∧ t.now = s.now ∧ t.stop = s.stop ∧ t.pret = s.pret

/-- Nothing of the decoder agent's record differs (R306). -/
def SameDecoder (s t : State) : Prop :=
  t.store = s.store ∧ t.dlog = s.dlog ∧ t.dctl = s.dctl ∧ t.dret = s.dret

/-- No counter is smaller (R36). -/
def StatsLe (a b : Stats) : Prop :=
  a.macErr ≤ b.macErr ∧ a.rxTotal ≤ b.rxTotal ∧ a.rxSuccess ≤ b.rxSuccess ∧ a.rxShort ≤ b.rxShort ∧
    a.rxSender ≤ b.rxSender ∧ a.rxFormat ≤ b.rxFormat ∧ a.rxCrc ≤ b.rxCrc ∧ a.txTotal ≤ b.txTotal ∧
    a.txFail ≤ b.txFail

/-- A field that has a value keeps one (R45). -/
def KeepsValue {α : Type} (a b : Option α) : Prop := a.isSome = true → b.isSome = true

/-- No valid bit of the store returns to 0 (R45). -/
def StoreKeeps (a b : Store) : Prop :=
  KeepsValue a.fast.setpoint b.fast.setpoint ∧ KeepsValue a.fast.boilerTemp b.fast.boilerTemp ∧
    KeepsValue a.fast.power b.fast.power ∧ KeepsValue a.fast.status b.fast.status ∧
    KeepsValue a.fast.flameCurrent b.fast.flameCurrent ∧
    KeepsValue a.slow.starts b.slow.starts ∧ KeepsValue a.slow.optimeMin b.slow.optimeMin ∧
    KeepsValue a.slow.burner b.slow.burner ∧ KeepsValue a.slow.blower b.slow.blower ∧
    KeepsValue a.slow.circPump b.slow.circPump ∧ KeepsValue a.slow.pump b.slow.pump ∧
    KeepsValue a.slow.exhaustTemp b.slow.exhaustTemp ∧
    KeepsValue a.ww.temp b.ww.temp ∧ KeepsValue a.ww.setpoint b.ww.setpoint ∧ KeepsValue a.ww.circPump b.ww.circPump ∧
    KeepsValue a.time.year b.time.year ∧ KeepsValue a.time.month b.time.month ∧ KeepsValue a.time.hour b.time.hour ∧
    KeepsValue a.time.day b.time.day ∧ KeepsValue a.time.minute b.time.minute ∧
    KeepsValue a.time.second b.time.second ∧ KeepsValue a.time.dow b.time.dow ∧ KeepsValue a.time.dst b.time.dst ∧
    KeepsValue a.mode.nightSp b.mode.nightSp ∧ KeepsValue a.mode.daySp b.mode.daySp ∧
    KeepsValue a.mode.holidaySp b.mode.holidaySp ∧ KeepsValue a.mode.mode b.mode.mode ∧
    KeepsValue a.mode.summerThr b.mode.summerThr ∧
    KeepsValue a.err.model b.err.model ∧ KeepsValue a.err.e1 b.err.e1 ∧ KeepsValue a.err.e2 b.err.e2 ∧
    KeepsValue a.err.e3 b.err.e3

end Sys2Proof.Machine
end

