-- ==== Sys2Proof/Certificates/Slice0/Obligations.lean ====
section
/-! DEFINITION. The statements for the provers. A next state is written out field by field, so that each says its frame too:
what is not named is unchanged. `Sys2Proof.core.run n s` is `n` steps of the machine. -/

section Statements

open Sys2Proof Sys2Proof.Machine

/-! ## Decoding and encoding -/

/-- Decode and encode agree, for every operation whose operands its rule admits and whose header selects it
(30_encoding.md R91..R114). -/
def Obligations.DecodeEncode : Prop :=
  ∀ (c : Cfg) (i : Instr), i.wf = true → keyFits c i = true → decode c (encode i).1 (encode i).2 = .ok i

/-- A few bytes written out from the spec's encodings decode to the operation they stand for (30_encoding.md R91..R114). The last
two clauses are words of the opcode table as `decodeTableWord` reads them: a key whose other bytes are 0, read after its guard
(DESIGN CHOICE, log 7), under the default configuration (log 1). -/
def Obligations.WrittenWordsDecode : Prop :=
  decode Cfg.default (.raw .idle true) [0b11111111] = .ok .rxEsc ∧
  decode Cfg.default (.raw .esc1 false) [0b11111111] = .ok .rxLitff ∧
  decode Cfg.default (.raw .esc2 true) [0b00000000] = .ok .rxBreak0 ∧
  decode Cfg.default (.wire .mark) [0b00000000] = .ok .txwBreak ∧
  decode Cfg.default .mac [0b00000001] = .ok .macAck ∧
  decode Cfg.default .mac [0b00001000] = .ok (.macRel 0x08) ∧
  decode Cfg.default .mac [0b10001011] = .ok (.macAssign 0x0B) ∧
  decode Cfg.default .mac [0b00000111] = .ok (.macRsvd 0x07) ∧
  decode Cfg.default .dest [0x0B, 0b10001000, 0x18, 0, 1, 0] = .ok (.dataReadreq [0x0B, 0x88, 0x18, 0, 1, 0]) ∧
  decodeTableWord 24 0x0800BF = some (.decUbaErr ([0x08, 0x00, 0xBF] ++ List.replicate 29 0)) ∧
  decodeTableWord 24 0x100006 = some (.decRcTime ([0x10, 0x00, 0x06] ++ List.replicate 29 0))

/-- The 256 control bytes fall into the four classes by the match and mask pairs of R105, and the decoder follows them. -/
def Obligations.ControlBytesPartition : Prop :=
  ∀ (c : Cfg) (v : Byte), decode c .mac [v] = .ok (match macClass v with
    | .ack => .macAck
    | .release => .macRel v
    | .assign id => .macAssign id
    | .reserved => .macRsvd v) ∧
    (macClass v = .ack ↔ v &&& 0xFF = 0x01) ∧
    (macClass v = .reserved ↔ v &&& 0xFF = 0x00 ∨ v &&& 0xFE = 0x02 ∨ v &&& 0xFC = 0x04) ∧
    (macClass v = .release ↔ v &&& 0xF8 = 0x08 ∨ v &&& 0xF0 = 0x10 ∨ v &&& 0xE0 = 0x20 ∨ v &&& 0xC0 = 0x40) ∧
    ((∃ id, macClass v = .assign id) ↔ v &&& 0x80 = 0x80) ∧
    (∀ id, macClass v = .assign id → id.toNat = v.toNat - 128)

/-! ## The step -/

/-- A step in a turn of an agent runs the operation decoded where that agent stands: the turn is taken off, the place is
popped (and what is left of the calling operation pushed), the line is read at the top of `WorkerStep`; nothing else. With no
turn left, the step is that of the state whose one turn is a free value and whose counter of draws is one higher (the turns
are DESIGN CHOICE, log 3; past their end, log 4). -/
def Obligations.StepRunsDecoded : Prop :=
  ∀ (s : State) (ts : List Turn) (i : Instr), configOk s.cfg = true →
    (s.turns = .worker :: ts → s.stopped = false →
      (∀ c k, s.wctl = c :: k →
        decode s.cfg (ctlPoint s c).1 (ctlPoint s c).2.1 = .ok i →
        step s = exec i { s with turns := ts, wctl := (ctlPoint s c).2.2 ++ k }) ∧
      (s.wctl = [] → s.stop = true → step s = exec .sysStop { s with turns := ts }) ∧
      (s.wctl = [] → s.stop = false →
        decode s.cfg (.raw s.frm.fs (s.frm.rxlen == 0)) (outcomeBytes (lineRead s).1) = .ok i →
        step s = exec i { (lineRead s).2 with turns := ts })) ∧
    (s.turns = .decoder :: ts →
      (∀ c k, s.dctl = c :: k → decode s.cfg (dctlPoint c).1 (dctlPoint c).2 = .ok i →
        step s = exec i { s with turns := ts, dctl := k }) ∧
      (s.dctl = [] → step s = exec .decRecv { s with turns := ts })) ∧
    (s.turns = [] → step s = step { s with turns := [Config.freeTurn s.draws], draws := s.draws + 1 })

/-- R130: the framer operation that `FS`, the outcome of `LineRead` and `RXLEN` select, and `SYS.STOP` before the read. -/
def Obligations.WorkerStepSelects : Prop :=
  ∀ (s : State) (ts : List Turn), configOk s.cfg = true → s.turns = .worker :: ts → s.stopped = false → s.wctl = [] →
    (s.stop = true → step s = exec .sysStop { s with turns := ts }) ∧
    (s.stop = false → ∀ u, lineRead s = (.timeout, u) → step s = exec .rxTmo { u with turns := ts }) ∧
    (s.stop = false → ∀ b u, lineRead s = (.byte b, u) →
      (s.frm.fs = .idle → b ≠ 0xFF → step s = exec (.rxData b) { u with turns := ts }) ∧
      (s.frm.fs = .idle → b = 0xFF → step s = exec .rxEsc { u with turns := ts }) ∧
      (s.frm.fs = .esc1 → b = 0xFF → step s = exec .rxLitff { u with turns := ts }) ∧
      (s.frm.fs = .esc1 → b = 0x00 → step s = exec .rxMark { u with turns := ts }) ∧
      (s.frm.fs = .esc1 → b ≠ 0x00 → b ≠ 0xFF → step s = exec (.rxBadesc b) { u with turns := ts }) ∧
      (s.frm.fs = .esc2 → b = 0x00 → 1 ≤ s.frm.rxlen → step s = exec .rxBreak { u with turns := ts }) ∧
      (s.frm.fs = .esc2 → b = 0x00 → s.frm.rxlen = 0 → step s = exec .rxBreak0 { u with turns := ts }) ∧
      (s.frm.fs = .esc2 → b ≠ 0x00 → step s = exec (.rxBadmark b) { u with turns := ts }))

/-- R72, R73: `LineRead` consumes the byte it returns and nothing on a time-out; `LineAvail` consumes no byte. An item of the
model's list that stands for an outcome (a time-out, or an answer to `LineAvail`) is used up. Past the end the outcome is a
free value (log 4). -/
def Obligations.LineWaits : Prop :=
  ∀ (s : State) (b : Byte) (l : List LineItem),
    (s.line = .rx b :: l → lineRead s = (.byte b, { s with line := l }) ∧ lineAvail s = (true, s)) ∧
    (s.line = .tmo :: l →
      lineRead s = (.timeout, { s with line := l }) ∧ lineAvail s = (false, { s with line := l })) ∧
    (s.line = .avail :: l →
      lineRead s = lineRead { s with line := l } ∧ lineAvail s = (true, { s with line := l })) ∧
    (s.line = [] →
      lineRead s = (Config.freeRead s.draws, { s with draws := s.draws + 1 }) ∧
        lineAvail s = (Config.freeAvail s.draws, { s with draws := s.draws + 1 }))

/-- The moves of the environment between two operations (R352, R66, R40, R331). A producer sees in `pret`, the model's own
register (log 8), whether its packet was stored. The restart keeps the configuration, the
time, the environment's lists and the records: DESIGN CHOICE, log 9. -/
def Obligations.EnvironmentMoves : Prop :=
  ∀ (s : State) (ts : List Turn), configOk s.cfg = true →
    (∀ d, s.turns = .advance d :: ts → step s = .next { s with turns := ts, now := s.now + d }) ∧
    (∀ p, s.turns = .produce p :: ts → 1 ≤ p.length → p.length ≤ 32 →
      step s = .next { s with
        turns := ts, outq := if s.outq.length < 32 then s.outq ++ [p] else s.outq
        pret := decide (s.outq.length < 32) }) ∧
    (∀ p, s.turns = .produce p :: ts → p.length = 0 ∨ 32 < p.length → step s = .refused .badPacket) ∧
    (∀ b, s.turns = .stopInput b :: ts → step s = .next { s with turns := ts, stop := b }) ∧
    (s.turns = .restart :: ts → step s = .next { State.reset with
      cfg := s.cfg, now := s.now, line := s.line, turns := ts, draws := s.draws,
      lineOut := s.lineOut, wlog := s.wlog, dlog := s.dlog })

/-- A configuration that a constraint of R336 excludes is refused, whatever else the state holds, and no other is (U20). The
refusal at each step is `badConfig`, log 11. -/
def Obligations.BadConfigRefused : Prop :=
  ∀ (s : State), (¬ ConfigAdmitted s.cfg → step s = .refused .badConfig) ∧
    (ConfigAdmitted s.cfg → step s ≠ .refused .badConfig)

/-! ## The framer -/

/-- R131, R133: `RX.DATA` with `b`, and `RX.LITFF` with 0xFF, in the three cases of the buffer. -/
def Obligations.FramerAppends : Prop :=
  ∀ (i : Instr) (b : Byte) (s : State), i = .rxData b ∨ (i = .rxLitff ∧ b = 0xFF) →
    (s.frm.rxlen < 32 → exec i s = .next { s with frm := { s.frm with
      rxbuf := s.frm.rxbuf.set s.frm.rxlen b, rxlen := s.frm.rxlen + 1, fs := .idle } }) ∧
    (32 ≤ s.frm.rxlen → s.frm.rxovf = false → exec i s = .next { s with
      frm := { s.frm with rxovf := true, fs := .idle }, wlog := s.wlog ++ [.framerOverflow] }) ∧
    (32 ≤ s.frm.rxlen → s.frm.rxovf = true → exec i s = .next { s with frm := { s.frm with fs := .idle } })

/-- R132, R134, R135, R137, R138, R139: these operations write `FS`, or nothing at all. -/
def Obligations.FramerEscapes : Prop :=
  ∀ (s : State) (y x : Byte),
    exec .rxEsc s = .next { s with frm := { s.frm with fs := .esc1 } } ∧
    exec .rxMark s = .next { s with frm := { s.frm with fs := .esc2 } } ∧
    exec (.rxBadesc y) s = .next { s with frm := { s.frm with fs := .idle } } ∧
    exec (.rxBadmark x) s = .next { s with frm := { s.frm with fs := .idle } } ∧
    exec .rxBreak0 s = .next { s with frm := { s.frm with fs := .idle } } ∧
    exec .rxTmo s = .next s

/-- R136: `RX.BREAK` resets the framer, refreshes the heartbeat and calls `OnTelegram` with the buffered bytes. -/
def Obligations.FramerBreak : Prop :=
  ∀ (s : State), exec .rxBreak s = .next { s with
    frm := { s.frm with rxlen := 0, rxovf := false, fs := .idle, heartbeat := some s.now },
    wctl := .telegram (s.frm.rxbuf.take s.frm.rxlen) :: s.wctl }

/-- R140, R141: what the two operations put on the line. Only the line is touched. -/
def Obligations.WireWrites : Prop :=
  ∀ (s : State) (b : Byte), s.parity = .normal →
    exec (.txwByte b) s = .next { s with lineOut := s.lineOut ++ [.write b .normal] } ∧
    exec .txwBreak s = .next { s with
      lineOut := s.lineOut ++ [.setParity .mark, .write 0x00 .mark, .setParity .normal], parity := .normal }

/-- R143: from a framer at rest the operations of the framer, one raw byte after the other, deliver exactly the telegrams of
`Frame`, for every raw byte sequence. -/
def Obligations.FramerIsFrame : Prop :=
  ∀ (s : State) (raw : List Byte), s.frm.fs = .idle → s.frm.rxlen = 0 → s.frm.rxovf = false →
    s.frm.rxbuf.length = 32 → s.wctl = [] → framerTelegrams s raw = some (frameRef raw)

/-! ## The arbiter -/

/-- R160, R165, R166: dispatch by length, with the classes of control bytes. -/
def Obligations.TelegramDispatch : Prop :=
  ∀ (s : State) (v : Byte) (t : Telegram), 2 ≤ t.length → t.length ≤ 32 →
    decode s.cfg .telegram [v] = .ok (.tgMac v) ∧ decode s.cfg .telegram t = .ok (.tgLong t) ∧
    exec (.tgMac v) s = .next { s with wctl := .mac v :: s.wctl } ∧
    decode s.cfg .mac [v] = .ok (if v = 0x01 then .macAck else if 0x08 ≤ v.toNat ∧ v.toNat ≤ 0x7F then .macRel v
      else if 0x80 ≤ v.toNat then .macAssign (v.setWidth 7) else .macRsvd v) ∧
    exec (.tgLong t) s = .next { s with
      stats := { s.stats with rxTotal := s.stats.rxTotal + 1 }, wctl := .long t :: s.wctl } ∧
    decode s.cfg .long t = .ok (if t.length < 6 then .tgShort t else .dataEvent t) ∧
    exec (.tgShort t) s = .next { s with
      stats := { s.stats with rxShort := s.stats.rxShort + 1 }, wlog := s.wlog ++ [.rxShort t.length] }

/-- R161, R162, R163, R164: the four MAC events, from every state. -/
def Obligations.MacEvents : Prop :=
  ∀ (s : State) (v : Byte) (id : DevId),
    exec .macAck s = .next { s with
      arb := { s.arb with bs := .assigned },
      stats := { s.stats with macErr := s.stats.macErr + (if s.arb.bs = .wrote then 0 else 1) },
      wlog := s.wlog ++ (if s.arb.bs = .wrote then [] else [.macErr .ackWithoutWrite 0x01 s.arb.bs]),
      wctl := if s.arb.polled.map BitVec.toNat = some s.cfg.ownId.toNat then .op .txInvoke :: s.wctl else s.wctl } ∧
    exec (.macRel v) s = .next { s with
      arb := { s.arb with bs := .released, polled := none },
      stats := { s.stats with macErr := s.stats.macErr + (if s.arb.bs = .assigned then 0 else 1) },
      wlog := s.wlog ++ (if s.arb.bs = .assigned then [] else [.macErr .releaseWithoutAssign v s.arb.bs]) } ∧
    exec (.macAssign id) s = .next { s with
      arb := { s.arb with bs := .assigned, polled := some id },
      tx := { s.tx with acqTime := if id.toNat = s.cfg.ownId.toNat then s.now else s.tx.acqTime },
      stats := { s.stats with
        macErr := s.stats.macErr + (if s.arb.bs = .released ∨ s.arb.bs = .assigned then 0 else 1) },
      wlog := s.wlog ++ (if s.arb.bs = .released ∨ s.arb.bs = .assigned then []
        else [.macErr .assignInBadState (0x80 ||| id.setWidth 8) s.arb.bs]),
      wctl := if id.toNat = s.cfg.ownId.toNat then .op .txInvoke :: s.wctl else s.wctl } ∧
    exec (.macRsvd v) s = .next { s with
      stats := { s.stats with macErr := s.stats.macErr + 1 },
      wlog := s.wlog ++ [.macErr .reservedValue v s.arb.bs] }

/-- R181, R184, with R161 to R164: two steps take every one-byte telegram, from every prior state, to the row of the table,
with its report and, for an assign to us, `ACQ_TIME`; the worker is back at the top of `WorkerStep`, or at `TxInvoke` exactly
after an ACK or an assign with `POLLED = OWN_ID`; nothing else changes. -/
def Obligations.MacTable : Prop :=
  ∀ (s : State) (v : Byte) (ts : List Turn), configOk s.cfg = true → s.stopped = false → s.wctl = [.telegram [v]] →
    s.turns = .worker :: .worker :: ts →
    let row := macTable (macClass v) s.arb.bs s.arb.polled
    let ours : Bool := decide (row.2.2.map BitVec.toNat = some s.cfg.ownId.toNat)
    Sys2Proof.core.run 2 s = .next { s with
      turns := ts
      wctl := if (v = 0x01 ∨ 0x80 ≤ v.toNat) ∧ ours = true then [.op .txInvoke] else []
      arb := { s.arb with bs := row.2.1, polled := row.2.2 }
      tx := { s.tx with acqTime := if 0x80 ≤ v.toNat ∧ ours = true then s.now else s.tx.acqTime }
      stats := { s.stats with macErr := s.stats.macErr + if row.1 then 1 else 0 }
      wlog := s.wlog ++ if row.1 then [.macErr (macClassCause (macClass v)) v s.arb.bs] else [] }

/-- R168, R171, R172, R178: the four drops. Counted once, reported once, the arbiter's state unchanged; and the addresses
that R168 calls valid. -/
def Obligations.DataDrops : Prop :=
  ∀ (s : State) (t : Telegram), 6 ≤ t.length →
    (∀ a d : Byte, (validSrc a = true ↔ 0x08 ≤ a.toNat ∧ a.toNat ≤ 0x7F) ∧ (validDst d = true ↔
      d.toNat = 0x00 ∨ (0x08 ≤ d.toNat ∧ d.toNat ≤ 0x7F) ∨ (0x88 ≤ d.toNat ∧ d.toNat ≤ 0xFF))) ∧
    exec (.dataAddr t) s = .next { s with
      stats := { s.stats with rxFormat := s.stats.rxFormat + 1 },
      wlog := s.wlog ++ [.rxFormat .addressRange ⟨byteAt t 0, byteAt t 1, byteAt t 2, byteAt t 3⟩] } ∧
    exec (.dataUnassigned t) s = .next { s with
      stats := { s.stats with rxSender := s.stats.rxSender + 1 },
      wlog := s.wlog ++ [.rxUnassigned (byteAt t 0)] } ∧
    exec (.dataWrongsender t) s = .next { s with
      stats := { s.stats with rxSender := s.stats.rxSender + 1 },
      wlog := s.wlog ++ [.rxWrongSender (byteAt t 0) s.arb.polled] } ∧
    exec (.dataInwrote t) s = .next { s with
      stats := { s.stats with rxSender := s.stats.rxSender + 1 },
      wlog := s.wlog ++ [.rxUnexpected (byteAt t 0)] }

/-- R167, R169, R170: the order of the checks, with `HdrMatch` evaluated once, before the preemption, which releases the bus
and goes on with the case on `BS`. -/
def Obligations.DataOrder : Prop :=
  ∀ (s : State) (t : Telegram), 6 ≤ t.length → t.length ≤ 32 →
    exec (.dataEvent t) s = .next { s with wctl := .event t (decide (s.arb.bs = .read ∧ byteAt t 0 = s.arb.rdexp.src ∧
      byteAt t 1 = s.arb.rdexp.dst ∧ byteAt t 2 = s.arb.rdexp.typ ∧ byteAt t 3 = s.arb.rdexp.b3)) :: s.wctl } ∧
    exec (.dataPreempt t) s = .next { s with
      arb := { s.arb with bs := .released, polled := none }, wctl := .case t false :: s.wctl } ∧
    ∀ (m : Bool),
      (validSrc (byteAt t 0) = false ∨ validDst (byteAt t 1) = false →
        decode s.cfg (.event s.arb.bs s.arb.polled m) t = .ok (.dataAddr t)) ∧
      (validSrc (byteAt t 0) = true → validDst (byteAt t 1) = true →
        (byteAt t 0 = s.cfg.masterId → m = false →
          decode s.cfg (.event s.arb.bs s.arb.polled m) t = .ok (.dataPreempt t)) ∧
        (byteAt t 0 ≠ s.cfg.masterId ∨ m = true →
          decode s.cfg (.event s.arb.bs s.arb.polled m) t = decode s.cfg (.case s.arb.bs s.arb.polled m) t)) ∧
      (s.arb.bs = .released → decode s.cfg (.case s.arb.bs s.arb.polled m) t =
        .ok (if byteAt t 0 ≠ s.cfg.masterId then .dataUnassigned t else .dataClassify t)) ∧
      (s.arb.bs = .assigned → decode s.cfg (.case s.arb.bs s.arb.polled m) t =
        .ok (if s.arb.polled.map BitVec.toNat ≠ some (byteAt t 0).toNat ∧ byteAt t 0 ≠ s.cfg.masterId
          then .dataWrongsender t else .dataClassify t)) ∧
      (s.arb.bs = .read → decode s.cfg (.case s.arb.bs s.arb.polled m) t = .ok (.dataReadresp t m)) ∧
      (s.arb.bs = .wrote → decode s.cfg (.case s.arb.bs s.arb.polled m) t = .ok (.dataInwrote t))

/-- R173, R174, R175, R176: an accepted telegram is classified by its destination, then accepted. -/
def Obligations.DataClasses : Prop :=
  ∀ (s : State) (t : Telegram), 6 ≤ t.length → t.length ≤ 32 →
    exec (.dataClassify t) s = .next { s with wctl := .dest t :: .op (.dataAccept t) :: s.wctl } ∧
    decode s.cfg .dest t = .ok (if 0x80 ≤ (byteAt t 1).toNat then .dataReadreq t
      else if 0x08 ≤ (byteAt t 1).toNat then .dataWrite t else .dataBcast t) ∧
    exec (.dataReadreq t) s = .next { s with arb := { s.arb with
      bs := .read, rdexp := ⟨byteAt t 1 &&& 0x7F, byteAt t 0, byteAt t 2, byteAt t 3⟩ } } ∧
    exec (.dataWrite t) s = .next { s with arb := { s.arb with bs := .wrote } } ∧
    exec (.dataBcast t) s = .next s

/-- R177: a data telegram while a read response is awaited; on a match it is accepted before `TxInvoke` runs. -/
def Obligations.ReadResponse : Prop :=
  ∀ (s : State) (t : Telegram), 6 ≤ t.length →
    exec (.dataReadresp t true) s = .next { s with
      arb := { s.arb with bs := .assigned },
      wctl := .op (.dataAccept t) ::
        (if s.arb.polled.map BitVec.toNat = some s.cfg.ownId.toNat then .op .txInvoke :: s.wctl else s.wctl) } ∧
    exec (.dataReadresp t false) s = .next { s with
      arb := { s.arb with bs := .assigned },
      stats := { s.stats with rxFormat := s.stats.rxFormat + 1 },
      wlog := s.wlog ++ [.rxFormat (.readHeaderMismatch s.arb.rdexp)
        ⟨byteAt t 0, byteAt t 1, byteAt t 2, byteAt t 3⟩] }

/-- R179: `DATA.ACCEPT` counts the telegram and pushes it, unmodified, to `INQ`; a full queue loses it. -/
def Obligations.DataAccepted : Prop :=
  ∀ (s : State) (t : Telegram), 6 ≤ t.length → t.length ≤ 32 →
    exec (.dataAccept t) s = .next { s with
      stats := { s.stats with rxSuccess := s.stats.rxSuccess + 1 },
      inq := if s.inq.length < 32 then s.inq ++ [t] else s.inq }

/-- R182: at most six steps take every data telegram with valid addresses, from every prior state, to the row of the table:
`rx_total` and the row's counter move, `BS` and `POLLED` are the row's, an accepted telegram is pushed, a dropped one is
reported once; the worker is back at the top of `WorkerStep`, or at `TxInvoke` after a matching read response. -/
def Obligations.DataTable : Prop :=
  ∀ (s : State) (t : Telegram) (ts : List Turn), configOk s.cfg = true → s.stopped = false →
    6 ≤ t.length → t.length ≤ 32 → validSrc (byteAt t 0) = true → validDst (byteAt t 1) = true →
    s.wctl = [.telegram t] → s.turns = List.replicate 6 .worker ++ ts →
    ∃ (n : Nat) (u : State), n ≤ 6 ∧ Sys2Proof.core.run n s = .next u ∧
      let row := dataTable s.cfg.masterId s.arb (hdrMatch s.arb t) t
      u.stats = statsInc row.1 { s.stats with rxTotal := s.stats.rxTotal + 1 } ∧
      u.arb.bs = row.2.1 ∧ u.arb.polled = row.2.2.1 ∧
      u.inq = (if row.2.2.2 ∧ s.inq.length < 32 then s.inq ++ [t] else s.inq) ∧
      u.wlog.length = s.wlog.length + (if row.2.2.2 then 0 else 1) ∧
      u.wctl = (if hdrMatch s.arb t ∧ s.arb.polled.map BitVec.toNat = some s.cfg.ownId.toNat then [.op .txInvoke]
        else []) ∧
      u.frm = s.frm ∧ u.tx = s.tx ∧ u.outq = s.outq ∧ u.store = s.store ∧ u.lineOut = s.lineOut ∧ u.line = s.line

/-! ## The Transmit Engine -/

/-- R200: the order of one invocation, place by place: `TX.PULL`; `TX.RELEASE` if nothing is pending, else `TX.STAMP`;
`TX.BUDGET`; `TX.RELEASE` if over budget, else `TX.ATTEMPT` with the header taken before it; `TX.RESULT(ok)`;
`TX.STATE(hdr)`. -/
def Obligations.InvocationOrder : Prop :=
  ∀ (s : State) (k : List Ctl) (ts : List Turn) (hdr : Header), configOk s.cfg = true → s.stopped = false →
    s.turns = .worker :: ts →
    exec .txInvoke s = .next { s with wctl := .op .txPull :: .pulled :: s.wctl } ∧
    (s.wctl = .op .txPull :: k → step s = exec .txPull { s with turns := ts, wctl := k }) ∧
    (s.wctl = .pulled :: k → s.tx.txpend = false →
      step s = exec (.txRelease .call) { s with turns := ts, wctl := k }) ∧
    (s.wctl = .pulled :: k → s.tx.txpend = true →
      step s = exec .txStamp { s with turns := ts, wctl := .stamped :: k }) ∧
    (s.wctl = .stamped :: k → step s = exec .txBudget { s with turns := ts, wctl := .budgeted :: k }) ∧
    (s.wctl = .budgeted :: k → s.wret = true →
      step s = exec (.txRelease .call) { s with turns := ts, wctl := k }) ∧
    (s.wctl = .budgeted :: k → s.wret = false →
      step s = exec .txAttempt { s with turns := ts, wctl := .attempted (headerOf (txTelegram s)) :: k }) ∧
    (s.wctl = .attempted hdr :: k →
      step s = exec (.txResult s.wret) { s with turns := ts, wctl := .op (.txState hdr) :: k }) ∧
    (s.wctl = .op (.txState hdr) :: k → step s = exec (.txState hdr) { s with turns := ts, wctl := k })

/-- R201: `TX.PULL` in its four cases. -/
def Obligations.TxPull : Prop :=
  ∀ (s : State),
    (s.tx.txpend = true → exec .txPull s = .next s) ∧
    (s.tx.txpend = false → s.outq = [] → exec .txPull s = .next s) ∧
    (∀ p q, s.tx.txpend = false → s.outq = p :: q → 6 ≤ p.length → exec .txPull s = .next { s with
      outq := q,
      tx := { s.tx with
        txbuf := p ++ s.tx.txbuf.drop p.length, txlen := p.length, txpend := true, retries := 0 } }) ∧
    (∀ p q, s.tx.txpend = false → s.outq = p :: q → p.length < 6 → exec .txPull s = .next { s with
      outq := q, wlog := s.wlog ++ [.txBadPacket p.length] })

/-- R202, R230: `TX.STAMP` overwrites byte 0 with `OWN_ID` and the last byte with the checksum of the bytes before it. -/
def Obligations.TxStamp : Prop :=
  ∀ (s : State), s.tx.txbuf.length = 32 → 6 ≤ s.tx.txlen → s.tx.txlen ≤ 32 →
    let body := s.cfg.ownId :: (s.tx.txbuf.take (s.tx.txlen - 1)).drop 1
    exec .txStamp s = .next { s with
      cks := Config.checksum body,
      tx := { s.tx with txbuf := body ++ [Config.checksum body] ++ s.tx.txbuf.drop s.tx.txlen } }

/-- R210 and the first corner case of R202: stamping changes only byte 0 and the last byte, and stamping again changes
nothing, so a retry sends the same bytes. -/
def Obligations.StampingIdempotent : Prop :=
  ∀ (s : State), s.tx.txbuf.length = 32 → 6 ≤ s.tx.txlen → s.tx.txlen ≤ 32 →
    ∃ u, exec .txStamp s = .next u ∧ exec .txStamp u = .next u ∧ u.tx.txlen = s.tx.txlen ∧
      byteAt u.tx.txbuf 0 = s.cfg.ownId ∧
      ∀ i, 1 ≤ i → i ≠ s.tx.txlen - 1 → u.tx.txbuf[i]? = s.tx.txbuf[i]?

/-- R203: over budget exactly when more than 200 ms have passed since the acquisition; the report is `wret`. -/
def Obligations.TxBudget : Prop :=
  ∀ (s : State),
    (s.now - s.tx.acqTime ≤ 200 → exec .txBudget s = .next { s with wret := false }) ∧
    (200 < s.now - s.tx.acqTime → exec .txBudget s = .next { s with
      wret := true, wlog := s.wlog ++ [.txBudget (s.now - s.tx.acqTime)] })

/-- R205, with R312 (b): `WriteTelegram` from each of its waits to the next. `next i` is where it goes once the bytes before
`i` are verified: to byte `i`, or past the last byte to the BREAK. `STOP` is sampled before the outcome is examined. `TXP` is
written where the byte or the BREAK before its wait is called: DESIGN CHOICE, log 2. -/
def Obligations.TxWrite : Prop :=
  ∀ (s : State) (t : Telegram), 1 ≤ t.length →
    let next (i : Nat) (u : State) : State := match t[i]? with
      | some b => { u with tx := { u.tx with txp := .echo i }, wctl := .op (.txwByte b) :: .write t :: u.wctl }
      | none => { u with tx := { u.tx with txp := .act }, wctl := .op .txwBreak :: .write t :: u.wctl }
    let fails (e : Event) (u : State) : State := { u with wret := false, wlog := u.wlog ++ [e] }
    let stops (u : State) : State := { u with tx := { u.tx with txp := .idle }, stopped := true, wctl := [] }
    (s.tx.txp = .idle → exec (.txWrite t) s = .next (next 0 s)) ∧
    (∀ i b u, s.tx.txp = .echo i → t[i]? = some b →
      (∀ o, lineRead s = (o, u) → s.stop = true → exec (.txWrite t) s = .next (stops u)) ∧
      (lineRead s = (.timeout, u) → s.stop = false → exec (.txWrite t) s = .next (fails (.txEchoMissing i) u)) ∧
      (∀ x, lineRead s = (.byte x, u) → s.stop = false → x ≠ b →
        exec (.txWrite t) s = .next (fails (.txEchoMismatch i b x) u)) ∧
      (lineRead s = (.byte b, u) → s.stop = false → b ≠ 0xFF → exec (.txWrite t) s = .next (next (i + 1) u)) ∧
      (lineRead s = (.byte b, u) → s.stop = false → b = 0xFF → exec (.txWrite t) s = .next
        { u with tx := { u.tx with txp := .echo2 i }, wctl := .write t :: u.wctl })) ∧
    (∀ i u, s.tx.txp = .echo2 i →
      (∀ o, lineRead s = (o, u) → s.stop = true → exec (.txWrite t) s = .next (stops u)) ∧
      (lineRead s = (.timeout, u) → s.stop = false → exec (.txWrite t) s = .next (fails (.txEchoMissing i) u)) ∧
      (∀ x, lineRead s = (.byte x, u) → s.stop = false → x ≠ 0xFF →
        exec (.txWrite t) s = .next (fails (.txEchoMismatch i 0xFF x) u)) ∧
      (lineRead s = (.byte 0xFF, u) → s.stop = false → exec (.txWrite t) s = .next (next (i + 1) u))) ∧
    (∀ u, s.tx.txp = .act →
      (∀ o, lineAvail s = (o, u) → s.stop = true → exec (.txWrite t) s = .next (stops u)) ∧
      (lineAvail s = (false, u) → s.stop = false → exec (.txWrite t) s = .next (fails .txNoBreakAck u)) ∧
      (lineAvail s = (true, u) → s.stop = false → exec (.txWrite t) s = .next { u with wret := true }))

/-- R206: the retry policy. -/
def Obligations.TxResult : Prop :=
  ∀ (s : State),
    exec (.txResult true) s = .next { s with tx := { s.tx with txpend := false, retries := 0 } } ∧
    (s.tx.retries < 5 →
      exec (.txResult false) s = .next { s with tx := { s.tx with retries := s.tx.retries + 1 } }) ∧
    (5 ≤ s.tx.retries → 4 ≤ s.tx.txlen → exec (.txResult false) s = .next { s with
      stats := { s.stats with txFail := s.stats.txFail + 1 },
      wlog := s.wlog ++ [.txDropped ⟨byteAt s.tx.txbuf 0, byteAt s.tx.txbuf 1, byteAt s.tx.txbuf 2, byteAt s.tx.txbuf 3⟩],
      tx := { s.tx with txpend := false, retries := 0 } })

/-- R207: the bus state after an attempt, by the destination byte. `TXP <- TX_IDLE`, the last line of R200, is made here:
DESIGN CHOICE, log 2. -/
def Obligations.TxState : Prop :=
  ∀ (s : State) (h : Header),
    (0x80 ≤ h.dst.toNat → exec (.txState h) s = .next { s with
      arb := { s.arb with bs := .read, rdexp := ⟨h.dst &&& 0x7F, s.cfg.ownId, h.typ, h.b3⟩ },
      tx := { s.tx with txp := .idle } }) ∧
    (0x08 ≤ h.dst.toNat → h.dst.toNat < 0x80 → exec (.txState h) s = .next { s with
      arb := { s.arb with bs := .wrote }, tx := { s.tx with txp := .idle } }) ∧
    (h.dst.toNat < 0x08 → exec (.txState h) s = .next { s with tx := { s.tx with txp := .idle } })

/-- R204, R208: `TX.ATTEMPT` is counted and calls `WriteTelegram(TXBUF, TXLEN)`; the release reply is not counted, calls
`WriteTelegram([OWN_ID], 1)`, ignores its result and releases the bus. -/
def Obligations.TxCallsWrite : Prop :=
  ∀ (s : State),
    exec .txAttempt s = .next { s with
      stats := { s.stats with txTotal := s.stats.txTotal + 1 },
      wctl := .write (s.tx.txbuf.take s.tx.txlen) :: s.wctl } ∧
    exec (.txRelease .call) s = .next { s with wctl := .write [s.cfg.ownId] :: .op (.txRelease .finish) :: s.wctl } ∧
    exec (.txRelease .finish) s = .next { s with
      arb := { s.arb with bs := .released, polled := none }, tx := { s.tx with txp := .idle } }

/-- R209: under `ECHO_LINE` one call of `WriteTelegram(t, n)` runs to its end in `3 + 2n + count_FF(t)` steps, writes the bytes
and the BREAK, consumes exactly the echoes, returns `true`, and leaves the echo of the BREAK unread. -/
def Obligations.WriteUnderEcho : Prop :=
  ∀ (s : State) (t : Telegram) (k : List Ctl) (l : List LineItem) (ts : List Turn), configOk s.cfg = true →
    1 ≤ t.length → t.length ≤ 32 → s.stopped = false → s.stop = false → s.parity = .normal → s.tx.txp = .idle →
    s.wctl = .write t :: k → s.line = echoItems t ++ itemsBrk ++ l →
    s.turns = List.replicate (writeSteps t) .worker ++ ts →
    Sys2Proof.core.run (writeSteps t) s = .next { s with
      wctl := k, wret := true, line := itemsBrk ++ l, turns := ts, tx := { s.tx with txp := .act },
      lineOut := s.lineOut ++ wireTelegram t }

/-- R200 to R207 together: an invocation that finds a packet of at least 6 bytes in `OUTQ`, is within budget and meets
`ECHO_LINE` sends the stamped packet, consumes exactly its echoes, clears the pending telegram and leaves the bus state by
the destination byte. -/
def Obligations.InvocationSends : Prop :=
  ∀ (s : State) (p : List Byte) (q : List (List Byte)) (l : List LineItem) (ts : List Turn), Inv s →
    s.stop = false → s.tx.txpend = false → s.outq = p :: q → 6 ≤ p.length →
    s.now - s.tx.acqTime ≤ 200 → s.wctl = [.op .txInvoke] →
    let body := s.cfg.ownId :: (p.take (p.length - 1)).drop 1
    let t := body ++ [Config.checksum body]
    s.line = echoItems t ++ itemsBrk ++ l → s.turns = List.replicate (7 + writeSteps t) .worker ++ ts →
    ∃ u : State, Sys2Proof.core.run (7 + writeSteps t) s = .next u ∧
      u.lineOut = s.lineOut ++ wireTelegram t ∧ u.line = itemsBrk ++ l ∧ u.outq = q ∧ u.wctl = [] ∧ u.wlog = s.wlog ∧
      u.tx.txpend = false ∧ u.tx.retries = 0 ∧ u.tx.txp = .idle ∧
      u.stats = { s.stats with txTotal := s.stats.txTotal + 1 } ∧
      u.arb.bs = classState (byteAt p 1) .assigned ∧ u.arb.polled = s.arb.polled ∧ u.inq = s.inq

/-- R200, R208: an invocation that finds nothing to send, under `ECHO_LINE`, sends the one byte `OWN_ID` and the BREAK, and
releases the bus; no counter moves. -/
def Obligations.InvocationReleases : Prop :=
  ∀ (s : State) (l : List LineItem) (ts : List Turn), Inv s → s.stop = false → s.tx.txpend = false → s.outq = [] →
    s.wctl = [.op .txInvoke] → s.line = .rx s.cfg.ownId :: (itemsBrk ++ l) → s.turns = List.replicate 9 .worker ++ ts →
    Sys2Proof.core.run 9 s = .next { s with
      arb := { s.arb with bs := .released, polled := none }, line := itemsBrk ++ l, turns := ts, wctl := [],
      wret := true, lineOut := s.lineOut ++ wireTelegram [s.cfg.ownId] }

/-- R205 corner (a), R206: an invocation with a pending telegram on a line that never echoes writes one byte and no BREAK,
is counted, and either keeps the telegram for a retry or, at the sixth failure, drops it with `tx_fail` + 1. -/
def Obligations.InvocationSilentLine : Prop :=
  ∀ (s : State) (l : List LineItem) (ts : List Turn), Inv s → s.stop = false → s.tx.txpend = true →
    s.now - s.tx.acqTime ≤ 200 → s.wctl = [.op .txInvoke] → s.line = .tmo :: l →
    s.turns = List.replicate 10 .worker ++ ts →
    ∃ u : State, Sys2Proof.core.run 10 s = .next u ∧
      u.lineOut = s.lineOut ++ [.write s.cfg.ownId .normal] ∧ u.line = l ∧ u.wctl = [] ∧
      u.stats.txTotal = s.stats.txTotal + 1 ∧
      (s.tx.retries < 5 → u.tx.txpend = true ∧ u.tx.retries = s.tx.retries + 1 ∧ u.stats.txFail = s.stats.txFail ∧
        u.wlog = s.wlog ++ [.txEchoMissing 0]) ∧
      (s.tx.retries = 5 → u.tx.txpend = false ∧ u.tx.retries = 0 ∧ u.stats.txFail = s.stats.txFail + 1 ∧
        u.wlog.length = s.wlog.length + 2) ∧
      u.arb.bs = classState (byteAt s.tx.txbuf 1) .assigned ∧ u.outq = s.outq

/-- R184, R211, R74: the engine drives the line only while it holds the bus (`BS = Assigned`, `POLLED = OWN_ID`), and only in
a turn of the worker. -/
def Obligations.DrivesOnlyWhenGranted : Prop :=
  ∀ (s u : State), Inv s → step s = .next u → u.lineOut ≠ s.lineOut →
    s.arb.bs = .assigned ∧ s.arb.polled.map BitVec.toNat = some s.cfg.ownId.toNat ∧ (takeTurn s).1 = .worker

/-! ## The checksum -/

/-- R230, R231: `CKSUM` is a function of the byte sequence alone; nothing else of the state is read or written. -/
def Obligations.ChecksumOfBytesAlone : Prop :=
  ∀ (l : List Byte) (s : State), exec (.cksum l) s = .next { s with cks := Config.checksum l }

/-! ## The decoder -/

/-- R240, R67: one packet of `INQ`, or an idle step; a packet shorter than 6 is dropped silently. -/
def Obligations.DecRecv : Prop :=
  ∀ (s : State),
    (s.inq = [] → exec .decRecv s = .next s) ∧
    (∀ p q, s.inq = p :: q → p.length < 6 → exec .decRecv s = .next { s with inq := q }) ∧
    (∀ p q, s.inq = p :: q → 6 ≤ p.length →
      exec .decRecv s = .next { s with inq := q, dctl := .op (.decDispatch p) :: s.dctl })

/-- R241: the selection by the key: plus telegrams first, then the first matching row, else undecoded with its cause. -/
def Obligations.DecDispatch : Prop :=
  ∀ (s : State) (t : Telegram), 6 ≤ t.length → t.length ≤ 32 →
    exec (.decDispatch t) s = .next { s with dctl := .key t :: s.dctl } ∧
    (byteAt t 2 = 0xFF → decode s.cfg .key t = .ok (.decPlus t)) ∧
    (byteAt t 2 ≠ 0xFF → decode s.cfg .key t =
      match (dispatchTable s.cfg).find? (fun r => decide (r.src = byteAt t 0 ∧ r.typ = byteAt t 2 ∧
        ((r.dst = .anyWrite ∧ (byteAt t 1).toNat < 0x80) ∨ r.dst = .exact (byteAt t 1)))) with
      | none => .ok (.decUndecoded t (if 0x80 ≤ (byteAt t 1).toNat then .readRequest else .unknownKey))
      | some r => .ok (.decGuard t (layoutMinLen r.layout)))

/-- R243: the guard is all or nothing; passed, the layout of the key's row comes next. -/
def Obligations.DecGuard : Prop :=
  ∀ (s : State) (t : Telegram) (n : Nat),
    (t.length < n → exec (.decGuard t n) s = .next { s with
      dctl := .op (.decUndecoded t .tooShortForLayout) :: s.dctl }) ∧
    (n ≤ t.length → exec (.decGuard t n) s = .next { s with dctl := .layout t :: s.dctl }) ∧
    layoutMinLen .ubaFast = 24 + 2 ∧ layoutMinLen .ubaSlow = 17 + 2 ∧ layoutMinLen .ubaWw = 17 + 2 ∧
    layoutMinLen .rcTime = 11 + 2 ∧ layoutMinLen .rcMode = 26 + 2 ∧ layoutMinLen .ubaErr = 13

/-- R245, R247: `DEC.UBA_FAST` and `DEC.UBA_WW`. -/
def Obligations.DecBoilerMonitors : Prop :=
  ∀ (s : State) (t : Telegram),
    (26 ≤ t.length → exec (.decUbaFast t) s = .next { s with
      dret := true,
      store := { s.store with fast :=
        { setpoint := some (byteAt t 10).toNat
          boilerTemp := some (BitVec.toInt (byteAt t 11 ++ byteAt t 12))
          power := some (byteAt t 14).toNat
          status := some (byteAt t 15).toNat
          flameCurrent := some (BitVec.toNat (byteAt t 23 ++ byteAt t 24)) } } }) ∧
    (19 ≤ t.length → exec (.decUbaWw t) s = .next { s with
      dret := true,
      store := { s.store with ww :=
        { temp := some (BitVec.toInt (byteAt t 5 ++ byteAt t 6))
          setpoint := some (byteAt t 4).toNat
          circPump := some ((byteAt t 17).getLsbD 2) } } })

/-- R246, R244: `DEC.UBA_SLOW` with the three filters: a rejected field keeps its stored value and is reported, in the order
of the fields; the others are committed. `x` is the optional exhaust field, if its offset is set and its bytes lie below the
checksum. `dret` is the model's own register. -/
def Obligations.DecUbaSlow : Prop :=
  ∀ (s : State) (t : Telegram), 19 ≤ t.length →
    let a : Nat := BitVec.toNat (byteAt t 12 ++ byteAt t 13 ++ byteAt t 14)
    let m : Nat := BitVec.toNat (byteAt t 15 ++ byteAt t 16 ++ byteAt t 17)
    let x : Option Int := match s.cfg.slowOffExhaust with
      | none => none
      | some k => if k + 2 < t.length then some (BitVec.toInt (byteAt t k ++ byteAt t (k + 1))) else none
    let okA : Bool := startsOk s.cfg a
    let okM : Bool := optimeOk s.cfg s.store.slow.optimeMin m
    let okX : Bool := match x with
      | none => true
      | some v => exhaustOk s.cfg v
    ∃ u, exec (.decUbaSlow t) s = .next u ∧ u = { s with
      dret := u.dret,
      dlog := s.dlog ++ (if okA then [] else [.decFilterReject .slowStarts a]) ++
        (if okM then [] else [.decFilterReject .slowOptimeMin m]) ++
        (match x with
          | none => []
          | some v => if okX then [] else [.decFilterReject .slowExhaustTemp v]),
      store := { s.store with slow :=
        { starts := if okA then some a else s.store.slow.starts
          optimeMin := if okM then some m else s.store.slow.optimeMin
          burner := some ((byteAt t 4).getLsbD 2)
          blower := some ((byteAt t 4).getLsbD 1)
          circPump := some ((byteAt t 4).getLsbD 7)
          pump := some ((byteAt t 4).getLsbD 5)
          exhaustTemp := match x with
            | none => s.store.slow.exhaustTemp
            | some v => if okX then some v else s.store.slow.exhaustTemp } } }

/-- R248, R249, R250: `DEC.RC_TIME`, whose fields are not range-checked, `DEC.RC_MODE`, and `DEC.UBA_ERR` at the offsets of
the configuration. -/
def Obligations.DecThermostatErr : Prop :=
  ∀ (s : State) (t : Telegram),
    (13 ≤ t.length → exec (.decRcTime t) s = .next { s with
      dret := true,
      store := { s.store with time :=
        { year := some (2000 + (byteAt t 4).toNat)
          month := some (byteAt t 5).toNat
          hour := some (byteAt t 6).toNat
          day := some (byteAt t 7).toNat
          minute := some (byteAt t 8).toNat
          second := some (byteAt t 9).toNat
          dow := some (byteAt t 10).toNat
          dst := some (decide (byteAt t 11 ≠ 0)) } } }) ∧
    (28 ≤ t.length → exec (.decRcMode t) s = .next { s with
      dret := true,
      store := { s.store with mode :=
        { nightSp := some (byteAt t 5).toNat
          daySp := some (byteAt t 6).toNat
          holidaySp := some (byteAt t 7).toNat
          mode := some (byteAt t 11).toNat
          summerThr := some (byteAt t 26).toNat } } }) ∧
    (13 ≤ t.length → configOk s.cfg = true → exec (.decUbaErr t) s = .next { s with
      dret := true,
      store := { s.store with err :=
        { model := some (byteAt t s.cfg.ubaErrOffModel).toNat
          e1 := some (byteAt t s.cfg.ubaErrOffE1).toNat
          e2 := some (byteAt t s.cfg.ubaErrOffE2).toNat
          e3 := some (byteAt t s.cfg.ubaErrOffE3).toNat } } })

/-- R251, R252: a plus telegram is undecoded unless the table has a row for it; an undecoded telegram is reported with every
byte and touches no field. -/
def Obligations.DecPlusUndecoded : Prop :=
  ∀ (s : State) (t : Telegram) (cause : UndecodedCause),
    exec (.decUndecoded t cause) s = .next { s with dlog := s.dlog ++ [.decUndecoded cause t] } ∧
    (6 ≤ t.length → byteAt t 2 = 0xFF →
      let sub : Option Byte := if s.cfg.plusSubtypeOff + 2 ≤ t.length then some (byteAt t s.cfg.plusSubtypeOff) else none
      let selected : Instr := match (dispatchTable s.cfg).find? (fun r => decide (r.src = byteAt t 0 ∧ r.typ = 0xFF ∧
          (r.dst = .exact (byteAt t 1) ∨ (r.dst = .anyWrite ∧ (byteAt t 1).toNat < 0x80)) ∧
          (r.sub = none ∨ r.sub = sub))) with
        | none => .decUndecoded t (.plus sub)
        | some r => .decGuard t (layoutMinLen r.layout)
      exec (.decPlus t) s = .next { s with dctl := .op selected :: s.dctl })

/-- R253, R254, R255, R256: the four filters: the verdict, and the report of a reject. `dret` holds the verdict. -/
def Obligations.FilterVerdicts : Prop :=
  ∀ (s : State) (v : Nat) (x : Int),
    let inDelta : Bool := match s.store.slow.optimeMin with
      | none => true
      | some last => decide (((v : Int) - (last : Int)).natAbs ≤ s.cfg.optimeMaxDelta)
    let okO : Bool := decide (s.cfg.optimeMin ≤ v ∧ v ≤ s.cfg.optimeMax) && inDelta
    let okS : Bool := decide (v ≠ 0 ∧ v ≤ s.cfg.startsMax)
    let okX : Bool := decide (x ≤ s.cfg.exhaustMax)
    exec (.fltOptime v) s = .next { s with
      dret := okO, dlog := s.dlog ++ (if okO then [] else [.decFilterReject .slowOptimeMin v]) } ∧
    exec (.fltStarts v) s = .next { s with
      dret := okS, dlog := s.dlog ++ (if okS then [] else [.decFilterReject .slowStarts v]) } ∧
    exec (.fltExhaust x) s = .next { s with
      dret := okX, dlog := s.dlog ++ (if okX then [] else [.decFilterReject .slowExhaustTemp x]) } ∧
    exec .fltPass s = .next { s with dret := true }

/-- R253 corner, R244: applying a layout to the same telegram a second time leaves the result store as the first left it. -/
def Obligations.LayoutIdempotent : Prop :=
  ∀ (s u : State) (t : Telegram) (l : Layout), exec (layoutInstr t l) s = .next u →
    ∃ v, exec (layoutInstr t l) u = .next v ∧ v.store = u.store

/-- R257: at most five turns of the decoder agent take one packet to a silent drop, to one `EV_DEC_UNDECODED` with the whole
telegram and no field update, or to the one commit of its row's layout, preceded by rejects only. -/
def Obligations.DecoderDrains : Prop :=
  ∀ (s : State) (p : List Byte) (q : List (List Byte)) (ts : List Turn), configOk s.cfg = true → s.dctl = [] →
    s.inq = p :: q → p.length ≤ 32 → s.turns = List.replicate 5 .decoder ++ ts →
    ∃ (n : Nat) (u : State), 1 ≤ n ∧ n ≤ 5 ∧ Sys2Proof.core.run n s = .next u ∧ u.dctl = [] ∧ u.inq = q ∧
      SameWorker s u ∧
      ((p.length < 6 ∧ u.dlog = s.dlog ∧ u.store = s.store) ∨
        (∃ cause, u.dlog = s.dlog ++ [.decUndecoded cause p] ∧ u.store = s.store) ∨
        (∃ r w rejects, findRow s.cfg p = some r ∧ layoutMinLen r.layout ≤ p.length ∧
          exec (layoutInstr p r.layout) s = .next w ∧ u.store = w.store ∧ u.dlog = s.dlog ++ rejects ∧
          ∀ e ∈ rejects, ∃ f v, e = .decFilterReject f v))

/-- R241, R243: four turns of the decoder agent apply the layout of the key's row to a packet that is long enough for it. -/
def Obligations.DecoderAppliesRow : Prop :=
  ∀ (s : State) (p : List Byte) (q : List (List Byte)) (ts : List Turn) (r : Row), configOk s.cfg = true →
    s.dctl = [] → s.inq = p :: q → 6 ≤ p.length → p.length ≤ 32 → byteAt p 2 ≠ 0xFF → findRow s.cfg p = some r →
    layoutMinLen r.layout ≤ p.length → s.turns = List.replicate 4 .decoder ++ ts →
    Sys2Proof.core.run 4 s = exec (layoutInstr p r.layout) { s with inq := q, turns := ts }

/-! ## Stop, reset, events -/

/-- R312: `SYS.STOP`; a stopped worker has no step, whatever `STOP` does, while the decoder agent goes on. Its turn is then spent
with no effect: DEDUCED, log 14. -/
def Obligations.StopHaltsTheWorker : Prop :=
  ∀ (s : State),
    exec .sysStop s = .next { s with tx := { s.tx with txp := .idle }, stopped := true, wctl := [] } ∧
    (∀ ts, configOk s.cfg = true → s.stopped = true → s.turns = .worker :: ts →
      step s = .next { s with turns := ts }) ∧
    (∀ ts p q, configOk s.cfg = true → s.stopped = true → s.turns = .decoder :: ts → s.dctl = [] → s.inq = p :: q →
      6 ≤ p.length → step s = .next { s with turns := ts, inq := q, dctl := [.op (.decDispatch p)] })

/-- R56: the values after reset that the spec states. -/
def Obligations.ResetValues : Prop :=
  let s := State.reset
  s.frm.fs = .idle ∧ s.frm.rxlen = 0 ∧ s.frm.rxovf = false ∧ s.frm.heartbeat = none ∧ s.arb.bs = .released ∧
    s.arb.polled = none ∧ s.tx.txpend = false ∧ s.tx.retries = 0 ∧ s.tx.txp = .idle ∧
    s.stats = ⟨0, 0, 0, 0, 0, 0, 0, 0, 0⟩ ∧ s.stopped = false ∧ s.inq = [] ∧ s.outq = [] ∧ s.store = Store.empty ∧
    s.parity = .normal

/-- R291: the codes, severities, counters and cause sub-codes are the table's, and no two events share a code. -/
def Obligations.EventTable : Prop :=
  ∀ (e : Event),
    (eventCode e = 0x01 ↔ e = .framerOverflow) ∧
    (eventCode e = 0x10 ↔ ∃ c v b, e = .macErr c v b) ∧
    (eventCode e = 0x20 ↔ ∃ n, e = .rxShort n) ∧
    (eventCode e = 0x21 ↔ ∃ c h, e = .rxFormat c h) ∧
    (eventCode e = 0x22 ↔ ∃ b, e = .rxUnassigned b) ∧
    (eventCode e = 0x23 ↔ ∃ b p, e = .rxWrongSender b p) ∧
    (eventCode e = 0x24 ↔ ∃ b, e = .rxUnexpected b) ∧
    (eventCode e = 0x30 ↔ ∃ n, e = .txBadPacket n) ∧
    (eventCode e = 0x31 ↔ ∃ n, e = .txBudget n) ∧
    (eventCode e = 0x32 ↔ ∃ i, e = .txEchoMissing i) ∧
    (eventCode e = 0x33 ↔ ∃ i a b, e = .txEchoMismatch i a b) ∧
    (eventCode e = 0x34 ↔ e = .txNoBreakAck) ∧
    (eventCode e = 0x35 ↔ ∃ h, e = .txDropped h) ∧
    (eventCode e = 0x40 ↔ ∃ c t, e = .decUndecoded c t) ∧
    (eventCode e = 0x41 ↔ ∃ f v, e = .decFilterReject f v) ∧
    (eventSeverity e = .warning ↔ eventCode e = 0x01 ∨ eventCode e = 0x31 ∨ eventCode e = 0x41) ∧
    (eventCounter e = some .macErr ↔ eventCode e = 0x10) ∧
    (eventCounter e = some .rxShort ↔ eventCode e = 0x20) ∧
    (eventCounter e = some .rxFormat ↔ eventCode e = 0x21) ∧
    (eventCounter e = some .rxSender ↔ eventCode e = 0x22 ∨ eventCode e = 0x23 ∨ eventCode e = 0x24) ∧
    (eventCounter e = some .txFail ↔ eventCode e = 0x35) ∧
    (eventCounter e = none ↔ eventCode e = 0x01 ∨ eventCode e = 0x30 ∨ eventCode e = 0x31 ∨ eventCode e = 0x32 ∨
      eventCode e = 0x33 ∨ eventCode e = 0x34 ∨ eventCode e = 0x40 ∨ eventCode e = 0x41) ∧
    (∀ v b, eventCause (.macErr .ackWithoutWrite v b) = some 1 ∧ eventCause (.macErr .releaseWithoutAssign v b) = some 2 ∧
      eventCause (.macErr .assignInBadState v b) = some 3 ∧ eventCause (.macErr .reservedValue v b) = some 4) ∧
    (∀ h x, eventCause (.rxFormat .addressRange h) = some 1 ∧
      eventCause (.rxFormat (.readHeaderMismatch x) h) = some 2) ∧
    (∀ t sub, eventCause (.decUndecoded .unknownKey t) = some 1 ∧ eventCause (.decUndecoded .readRequest t) = some 2 ∧
      eventCause (.decUndecoded .tooShortForLayout t) = some 3 ∧ eventCause (.decUndecoded (.plus sub) t) = some 4) ∧
    (eventCause e = none ↔ eventCode e ≠ 0x10 ∧ eventCode e ≠ 0x21 ∧ eventCode e ≠ 0x40)

/-- R290: an event and its counter always occur together. An operation of the machine raises at most one event of the worker;
with an event exactly the counter of its row of R291 moves, by one, and none if the row has none; without an event none of
these counters moves. -/
def Obligations.EventsCount : Prop :=
  ∀ (i : Instr) (s u : State), exec i s = .next u →
    (u.wlog = s.wlog ∧ u.stats.macErr = s.stats.macErr ∧ u.stats.rxShort = s.stats.rxShort ∧
      u.stats.rxFormat = s.stats.rxFormat ∧ u.stats.rxSender = s.stats.rxSender ∧ u.stats.txFail = s.stats.txFail) ∨
    (∃ e, u.wlog = s.wlog ++ [e] ∧ u.stats = (eventCounter e).elim s.stats (fun c => statsInc c s.stats))

/-- The model's own stop (DESIGN CHOICE, log 10): the data operations but `DATA.ACCEPT`, `TX.STAMP`, `DEC.DISPATCH`, `DEC.PLUS`
and the six layouts fault on a telegram shorter than the length their rule admits; `TX.STAMP` takes its own, from `TXBUF`. -/
def Obligations.ShortTelegramFaults : Prop :=
  ∀ (s : State) (t : Telegram) (i : Instr),
    (t.length < 6 ∧ (i = .dataEvent t ∨ i = .dataAddr t ∨ i = .dataPreempt t ∨ i = .dataUnassigned t ∨
      i = .dataWrongsender t ∨ i = .dataClassify t ∨ i = .dataReadreq t ∨ i = .dataWrite t ∨ i = .dataBcast t ∨
      i = .dataReadresp t true ∨ i = .dataReadresp t false ∨ i = .dataInwrote t ∨ i = .decDispatch t ∨ i = .decPlus t)) ∨
    (t.length < 26 ∧ i = .decUbaFast t) ∨ (t.length < 19 ∧ (i = .decUbaSlow t ∨ i = .decUbaWw t)) ∨
    (t.length < 13 ∧ (i = .decRcTime t ∨ i = .decUbaErr t)) ∨ (t.length < 28 ∧ i = .decRcMode t) ∨
    ((s.tx.txbuf.take s.tx.txlen).length < 6 ∧ i = .txStamp) →
    exec i s = .fault .telegramIndex

/-! ## Invariants and whole-machine rules -/

/-- The invariant holds after reset. It rests on values the spec does not give: the zeros of `TXLEN`, `ACQ_TIME`, the time input
and the buffers (DESIGN CHOICE, log 5) and the default configuration (log 1). -/
def Obligations.InvAtReset : Prop := Inv State.reset

/-- Every step keeps the invariant: the forms of buffers and queues, `Released` implies `POLLED = none` (R30), the bounds of
`RETRIES` and `TXLEN` (R33, R34), parity `Normal` between operations (R55), the framer at rest inside `OnTelegram` (R144), the
engine holding the bus inside `TxInvoke` (R184), the sum of the receive counters (R37), the widths of the result store. -/
def Obligations.InvKept : Prop := ∀ (s u : State), Inv s → step s = .next u → Inv u

/-- R300, R76, R257: from a state with the invariant no step faults; the only refusal is a packet that breaks the
precondition of `QPush` in a producer's turn (U16). -/
def Obligations.StepTotal : Prop :=
  ∀ (s : State), Inv s → SafeOutcome (step s) ∧
    ((∀ p, (takeTurn s).1 = .produce p → packetOk p = true) → ∃ u, step s = .next u)

/-- R36: no counter ever decreases but at an engine start (R331), and a step of the machine moves each by at most one. -/
def Obligations.CountersMonotone : Prop :=
  ∀ (s u : State), step s = .next u → (takeTurn s).1 ≠ .restart →
    StatsLe s.stats u.stats ∧ u.stats.macErr ≤ s.stats.macErr + 1 ∧ u.stats.rxTotal ≤ s.stats.rxTotal + 1 ∧
      u.stats.rxSuccess ≤ s.stats.rxSuccess + 1 ∧ u.stats.rxShort ≤ s.stats.rxShort + 1 ∧
      u.stats.rxSender ≤ s.stats.rxSender + 1 ∧ u.stats.rxFormat ≤ s.stats.rxFormat + 1 ∧
      u.stats.rxCrc = s.stats.rxCrc ∧ u.stats.txTotal ≤ s.stats.txTotal + 1 ∧ u.stats.txFail ≤ s.stats.txFail + 1

/-- R45: no valid bit of the result store returns to 0 but at an engine start (R331). -/
def Obligations.ValidBitsStay : Prop :=
  ∀ (s u : State), step s = .next u → (takeTurn s).1 ≠ .restart → StoreKeeps s.store u.store

/-- R21, R40, R290, R312 (e): the configuration never changes, the time never decreases, what was emitted is never taken back,
and `STOPPED` stays 1 until an engine start. That an engine start keeps the configuration, the time and the records is the
model's choice (DESIGN CHOICE, log 9). -/
def Obligations.RecordsGrow : Prop :=
  ∀ (s u : State), step s = .next u → u.cfg = s.cfg ∧ s.now ≤ u.now ∧
    (∃ a, u.wlog = s.wlog ++ a) ∧ (∃ a, u.dlog = s.dlog ++ a) ∧ (∃ a, u.lineOut = s.lineOut ++ a) ∧
    ((takeTurn s).1 ≠ .restart → s.stopped = true → u.stopped = true)

/-- R306: a turn of the worker writes nothing of the decoder agent and pushes to `INQ` at its tail only; a turn of the
decoder agent writes nothing of the worker and takes from the head of `INQ` only. -/
def Obligations.Ownership : Prop :=
  ∀ (s u : State), Inv s → step s = .next u →
    ((takeTurn s).1 = .worker → SameDecoder s u ∧ (u.inq = s.inq ∨ ∃ p, u.inq = s.inq ++ [p]) ∧
      (u.outq = s.outq ∨ ∃ p, s.outq = p :: u.outq) ∧ u.now = s.now ∧ u.stop = s.stop ∧
      u.pret = s.pret) ∧
    ((takeTurn s).1 = .decoder → SameWorker s u ∧ (u.inq = s.inq ∨ ∃ p, s.inq = p :: u.inq))

end Statements
end

