-- ==== Sys2Proof/Laws/State.lean ====
section
/-! SUPPORT. Field by field, what each named update of the state leaves: no proof unfolds an update again. -/

namespace Sys2Proof.Machine

variable (s : State)

/-! ### count -/

@[simp] theorem count_cfg (c : Counter) : (count c s).cfg = s.cfg := rfl
@[simp] theorem count_frm (c : Counter) : (count c s).frm = s.frm := rfl
@[simp] theorem count_arb (c : Counter) : (count c s).arb = s.arb := rfl
@[simp] theorem count_tx (c : Counter) : (count c s).tx = s.tx := rfl
@[simp] theorem count_stats (c : Counter) : (count c s).stats = statsInc c s.stats := rfl
@[simp] theorem count_inq (c : Counter) : (count c s).inq = s.inq := rfl
@[simp] theorem count_outq (c : Counter) : (count c s).outq = s.outq := rfl
@[simp] theorem count_store (c : Counter) : (count c s).store = s.store := rfl
@[simp] theorem count_now (c : Counter) : (count c s).now = s.now := rfl
@[simp] theorem count_stop (c : Counter) : (count c s).stop = s.stop := rfl
@[simp] theorem count_stopped (c : Counter) : (count c s).stopped = s.stopped := rfl
@[simp] theorem count_parity (c : Counter) : (count c s).parity = s.parity := rfl
@[simp] theorem count_lineOut (c : Counter) : (count c s).lineOut = s.lineOut := rfl
@[simp] theorem count_wlog (c : Counter) : (count c s).wlog = s.wlog := rfl
@[simp] theorem count_dlog (c : Counter) : (count c s).dlog = s.dlog := rfl
@[simp] theorem count_line (c : Counter) : (count c s).line = s.line := rfl
@[simp] theorem count_turns (c : Counter) : (count c s).turns = s.turns := rfl
@[simp] theorem count_draws (c : Counter) : (count c s).draws = s.draws := rfl
@[simp] theorem count_wctl (c : Counter) : (count c s).wctl = s.wctl := rfl
@[simp] theorem count_dctl (c : Counter) : (count c s).dctl = s.dctl := rfl
@[simp] theorem count_wret (c : Counter) : (count c s).wret = s.wret := rfl
@[simp] theorem count_dret (c : Counter) : (count c s).dret = s.dret := rfl
@[simp] theorem count_pret (c : Counter) : (count c s).pret = s.pret := rfl
@[simp] theorem count_cks (c : Counter) : (count c s).cks = s.cks := rfl

/-! ### raiseW -/

@[simp] theorem raiseW_cfg (e : Event) : (raiseW e s).cfg = s.cfg := rfl
@[simp] theorem raiseW_frm (e : Event) : (raiseW e s).frm = s.frm := rfl
@[simp] theorem raiseW_arb (e : Event) : (raiseW e s).arb = s.arb := rfl
@[simp] theorem raiseW_tx (e : Event) : (raiseW e s).tx = s.tx := rfl
@[simp] theorem raiseW_stats (e : Event) : (raiseW e s).stats = s.stats := rfl
@[simp] theorem raiseW_inq (e : Event) : (raiseW e s).inq = s.inq := rfl
@[simp] theorem raiseW_outq (e : Event) : (raiseW e s).outq = s.outq := rfl
@[simp] theorem raiseW_store (e : Event) : (raiseW e s).store = s.store := rfl
@[simp] theorem raiseW_now (e : Event) : (raiseW e s).now = s.now := rfl
@[simp] theorem raiseW_stop (e : Event) : (raiseW e s).stop = s.stop := rfl
@[simp] theorem raiseW_stopped (e : Event) : (raiseW e s).stopped = s.stopped := rfl
@[simp] theorem raiseW_parity (e : Event) : (raiseW e s).parity = s.parity := rfl
@[simp] theorem raiseW_lineOut (e : Event) : (raiseW e s).lineOut = s.lineOut := rfl
@[simp] theorem raiseW_wlog (e : Event) : (raiseW e s).wlog = s.wlog ++ [e] := rfl
@[simp] theorem raiseW_dlog (e : Event) : (raiseW e s).dlog = s.dlog := rfl
@[simp] theorem raiseW_line (e : Event) : (raiseW e s).line = s.line := rfl
@[simp] theorem raiseW_turns (e : Event) : (raiseW e s).turns = s.turns := rfl
@[simp] theorem raiseW_draws (e : Event) : (raiseW e s).draws = s.draws := rfl
@[simp] theorem raiseW_wctl (e : Event) : (raiseW e s).wctl = s.wctl := rfl
@[simp] theorem raiseW_dctl (e : Event) : (raiseW e s).dctl = s.dctl := rfl
@[simp] theorem raiseW_wret (e : Event) : (raiseW e s).wret = s.wret := rfl
@[simp] theorem raiseW_dret (e : Event) : (raiseW e s).dret = s.dret := rfl
@[simp] theorem raiseW_pret (e : Event) : (raiseW e s).pret = s.pret := rfl
@[simp] theorem raiseW_cks (e : Event) : (raiseW e s).cks = s.cks := rfl

/-! ### raiseD -/

@[simp] theorem raiseD_cfg (e : Event) : (raiseD e s).cfg = s.cfg := rfl
@[simp] theorem raiseD_frm (e : Event) : (raiseD e s).frm = s.frm := rfl
@[simp] theorem raiseD_arb (e : Event) : (raiseD e s).arb = s.arb := rfl
@[simp] theorem raiseD_tx (e : Event) : (raiseD e s).tx = s.tx := rfl
@[simp] theorem raiseD_stats (e : Event) : (raiseD e s).stats = s.stats := rfl
@[simp] theorem raiseD_inq (e : Event) : (raiseD e s).inq = s.inq := rfl
@[simp] theorem raiseD_outq (e : Event) : (raiseD e s).outq = s.outq := rfl
@[simp] theorem raiseD_store (e : Event) : (raiseD e s).store = s.store := rfl
@[simp] theorem raiseD_now (e : Event) : (raiseD e s).now = s.now := rfl
@[simp] theorem raiseD_stop (e : Event) : (raiseD e s).stop = s.stop := rfl
@[simp] theorem raiseD_stopped (e : Event) : (raiseD e s).stopped = s.stopped := rfl
@[simp] theorem raiseD_parity (e : Event) : (raiseD e s).parity = s.parity := rfl
@[simp] theorem raiseD_lineOut (e : Event) : (raiseD e s).lineOut = s.lineOut := rfl
@[simp] theorem raiseD_wlog (e : Event) : (raiseD e s).wlog = s.wlog := rfl
@[simp] theorem raiseD_dlog (e : Event) : (raiseD e s).dlog = s.dlog ++ [e] := rfl
@[simp] theorem raiseD_line (e : Event) : (raiseD e s).line = s.line := rfl
@[simp] theorem raiseD_turns (e : Event) : (raiseD e s).turns = s.turns := rfl
@[simp] theorem raiseD_draws (e : Event) : (raiseD e s).draws = s.draws := rfl
@[simp] theorem raiseD_wctl (e : Event) : (raiseD e s).wctl = s.wctl := rfl
@[simp] theorem raiseD_dctl (e : Event) : (raiseD e s).dctl = s.dctl := rfl
@[simp] theorem raiseD_wret (e : Event) : (raiseD e s).wret = s.wret := rfl
@[simp] theorem raiseD_dret (e : Event) : (raiseD e s).dret = s.dret := rfl
@[simp] theorem raiseD_pret (e : Event) : (raiseD e s).pret = s.pret := rfl
@[simp] theorem raiseD_cks (e : Event) : (raiseD e s).cks = s.cks := rfl

/-! ### callW -/

@[simp] theorem callW_cfg (cs : List Ctl) : (callW cs s).cfg = s.cfg := rfl
@[simp] theorem callW_frm (cs : List Ctl) : (callW cs s).frm = s.frm := rfl
@[simp] theorem callW_arb (cs : List Ctl) : (callW cs s).arb = s.arb := rfl
@[simp] theorem callW_tx (cs : List Ctl) : (callW cs s).tx = s.tx := rfl
@[simp] theorem callW_stats (cs : List Ctl) : (callW cs s).stats = s.stats := rfl
@[simp] theorem callW_inq (cs : List Ctl) : (callW cs s).inq = s.inq := rfl
@[simp] theorem callW_outq (cs : List Ctl) : (callW cs s).outq = s.outq := rfl
@[simp] theorem callW_store (cs : List Ctl) : (callW cs s).store = s.store := rfl
@[simp] theorem callW_now (cs : List Ctl) : (callW cs s).now = s.now := rfl
@[simp] theorem callW_stop (cs : List Ctl) : (callW cs s).stop = s.stop := rfl
@[simp] theorem callW_stopped (cs : List Ctl) : (callW cs s).stopped = s.stopped := rfl
@[simp] theorem callW_parity (cs : List Ctl) : (callW cs s).parity = s.parity := rfl
@[simp] theorem callW_lineOut (cs : List Ctl) : (callW cs s).lineOut = s.lineOut := rfl
@[simp] theorem callW_wlog (cs : List Ctl) : (callW cs s).wlog = s.wlog := rfl
@[simp] theorem callW_dlog (cs : List Ctl) : (callW cs s).dlog = s.dlog := rfl
@[simp] theorem callW_line (cs : List Ctl) : (callW cs s).line = s.line := rfl
@[simp] theorem callW_turns (cs : List Ctl) : (callW cs s).turns = s.turns := rfl
@[simp] theorem callW_draws (cs : List Ctl) : (callW cs s).draws = s.draws := rfl
@[simp] theorem callW_wctl (cs : List Ctl) : (callW cs s).wctl = cs ++ s.wctl := rfl
@[simp] theorem callW_dctl (cs : List Ctl) : (callW cs s).dctl = s.dctl := rfl
@[simp] theorem callW_wret (cs : List Ctl) : (callW cs s).wret = s.wret := rfl
@[simp] theorem callW_dret (cs : List Ctl) : (callW cs s).dret = s.dret := rfl
@[simp] theorem callW_pret (cs : List Ctl) : (callW cs s).pret = s.pret := rfl
@[simp] theorem callW_cks (cs : List Ctl) : (callW cs s).cks = s.cks := rfl

/-! ### callD -/

@[simp] theorem callD_cfg (c : DCtl) : (callD c s).cfg = s.cfg := rfl
@[simp] theorem callD_frm (c : DCtl) : (callD c s).frm = s.frm := rfl
@[simp] theorem callD_arb (c : DCtl) : (callD c s).arb = s.arb := rfl
@[simp] theorem callD_tx (c : DCtl) : (callD c s).tx = s.tx := rfl
@[simp] theorem callD_stats (c : DCtl) : (callD c s).stats = s.stats := rfl
@[simp] theorem callD_inq (c : DCtl) : (callD c s).inq = s.inq := rfl
@[simp] theorem callD_outq (c : DCtl) : (callD c s).outq = s.outq := rfl
@[simp] theorem callD_store (c : DCtl) : (callD c s).store = s.store := rfl
@[simp] theorem callD_now (c : DCtl) : (callD c s).now = s.now := rfl
@[simp] theorem callD_stop (c : DCtl) : (callD c s).stop = s.stop := rfl
@[simp] theorem callD_stopped (c : DCtl) : (callD c s).stopped = s.stopped := rfl
@[simp] theorem callD_parity (c : DCtl) : (callD c s).parity = s.parity := rfl
@[simp] theorem callD_lineOut (c : DCtl) : (callD c s).lineOut = s.lineOut := rfl
@[simp] theorem callD_wlog (c : DCtl) : (callD c s).wlog = s.wlog := rfl
@[simp] theorem callD_dlog (c : DCtl) : (callD c s).dlog = s.dlog := rfl
@[simp] theorem callD_line (c : DCtl) : (callD c s).line = s.line := rfl
@[simp] theorem callD_turns (c : DCtl) : (callD c s).turns = s.turns := rfl
@[simp] theorem callD_draws (c : DCtl) : (callD c s).draws = s.draws := rfl
@[simp] theorem callD_wctl (c : DCtl) : (callD c s).wctl = s.wctl := rfl
@[simp] theorem callD_dctl (c : DCtl) : (callD c s).dctl = c :: s.dctl := rfl
@[simp] theorem callD_wret (c : DCtl) : (callD c s).wret = s.wret := rfl
@[simp] theorem callD_dret (c : DCtl) : (callD c s).dret = s.dret := rfl
@[simp] theorem callD_pret (c : DCtl) : (callD c s).pret = s.pret := rfl
@[simp] theorem callD_cks (c : DCtl) : (callD c s).cks = s.cks := rfl

/-! ### setFs -/

@[simp] theorem setFs_cfg (f : FramerState) : (setFs f s).cfg = s.cfg := rfl
@[simp] theorem setFs_frm (f : FramerState) : (setFs f s).frm = { s.frm with fs := f } := rfl
@[simp] theorem setFs_arb (f : FramerState) : (setFs f s).arb = s.arb := rfl
@[simp] theorem setFs_tx (f : FramerState) : (setFs f s).tx = s.tx := rfl
@[simp] theorem setFs_stats (f : FramerState) : (setFs f s).stats = s.stats := rfl
@[simp] theorem setFs_inq (f : FramerState) : (setFs f s).inq = s.inq := rfl
@[simp] theorem setFs_outq (f : FramerState) : (setFs f s).outq = s.outq := rfl
@[simp] theorem setFs_store (f : FramerState) : (setFs f s).store = s.store := rfl
@[simp] theorem setFs_now (f : FramerState) : (setFs f s).now = s.now := rfl
@[simp] theorem setFs_stop (f : FramerState) : (setFs f s).stop = s.stop := rfl
@[simp] theorem setFs_stopped (f : FramerState) : (setFs f s).stopped = s.stopped := rfl
@[simp] theorem setFs_parity (f : FramerState) : (setFs f s).parity = s.parity := rfl
@[simp] theorem setFs_lineOut (f : FramerState) : (setFs f s).lineOut = s.lineOut := rfl
@[simp] theorem setFs_wlog (f : FramerState) : (setFs f s).wlog = s.wlog := rfl
@[simp] theorem setFs_dlog (f : FramerState) : (setFs f s).dlog = s.dlog := rfl
@[simp] theorem setFs_line (f : FramerState) : (setFs f s).line = s.line := rfl
@[simp] theorem setFs_turns (f : FramerState) : (setFs f s).turns = s.turns := rfl
@[simp] theorem setFs_draws (f : FramerState) : (setFs f s).draws = s.draws := rfl
@[simp] theorem setFs_wctl (f : FramerState) : (setFs f s).wctl = s.wctl := rfl
@[simp] theorem setFs_dctl (f : FramerState) : (setFs f s).dctl = s.dctl := rfl
@[simp] theorem setFs_wret (f : FramerState) : (setFs f s).wret = s.wret := rfl
@[simp] theorem setFs_dret (f : FramerState) : (setFs f s).dret = s.dret := rfl
@[simp] theorem setFs_pret (f : FramerState) : (setFs f s).pret = s.pret := rfl
@[simp] theorem setFs_cks (f : FramerState) : (setFs f s).cks = s.cks := rfl

/-! ### setBs -/

@[simp] theorem setBs_cfg (b : BusState) : (setBs b s).cfg = s.cfg := rfl
@[simp] theorem setBs_frm (b : BusState) : (setBs b s).frm = s.frm := rfl
@[simp] theorem setBs_arb (b : BusState) : (setBs b s).arb = { s.arb with bs := b } := rfl
@[simp] theorem setBs_tx (b : BusState) : (setBs b s).tx = s.tx := rfl
@[simp] theorem setBs_stats (b : BusState) : (setBs b s).stats = s.stats := rfl
@[simp] theorem setBs_inq (b : BusState) : (setBs b s).inq = s.inq := rfl
@[simp] theorem setBs_outq (b : BusState) : (setBs b s).outq = s.outq := rfl
@[simp] theorem setBs_store (b : BusState) : (setBs b s).store = s.store := rfl
@[simp] theorem setBs_now (b : BusState) : (setBs b s).now = s.now := rfl
@[simp] theorem setBs_stop (b : BusState) : (setBs b s).stop = s.stop := rfl
@[simp] theorem setBs_stopped (b : BusState) : (setBs b s).stopped = s.stopped := rfl
@[simp] theorem setBs_parity (b : BusState) : (setBs b s).parity = s.parity := rfl
@[simp] theorem setBs_lineOut (b : BusState) : (setBs b s).lineOut = s.lineOut := rfl
@[simp] theorem setBs_wlog (b : BusState) : (setBs b s).wlog = s.wlog := rfl
@[simp] theorem setBs_dlog (b : BusState) : (setBs b s).dlog = s.dlog := rfl
@[simp] theorem setBs_line (b : BusState) : (setBs b s).line = s.line := rfl
@[simp] theorem setBs_turns (b : BusState) : (setBs b s).turns = s.turns := rfl
@[simp] theorem setBs_draws (b : BusState) : (setBs b s).draws = s.draws := rfl
@[simp] theorem setBs_wctl (b : BusState) : (setBs b s).wctl = s.wctl := rfl
@[simp] theorem setBs_dctl (b : BusState) : (setBs b s).dctl = s.dctl := rfl
@[simp] theorem setBs_wret (b : BusState) : (setBs b s).wret = s.wret := rfl
@[simp] theorem setBs_dret (b : BusState) : (setBs b s).dret = s.dret := rfl
@[simp] theorem setBs_pret (b : BusState) : (setBs b s).pret = s.pret := rfl
@[simp] theorem setBs_cks (b : BusState) : (setBs b s).cks = s.cks := rfl

/-! ### releaseBus -/

@[simp] theorem releaseBus_cfg : (releaseBus s).cfg = s.cfg := rfl
@[simp] theorem releaseBus_frm : (releaseBus s).frm = s.frm := rfl
@[simp] theorem releaseBus_arb : (releaseBus s).arb = { s.arb with bs := .released, polled := none } := rfl
@[simp] theorem releaseBus_tx : (releaseBus s).tx = s.tx := rfl
@[simp] theorem releaseBus_stats : (releaseBus s).stats = s.stats := rfl
@[simp] theorem releaseBus_inq : (releaseBus s).inq = s.inq := rfl
@[simp] theorem releaseBus_outq : (releaseBus s).outq = s.outq := rfl
@[simp] theorem releaseBus_store : (releaseBus s).store = s.store := rfl
@[simp] theorem releaseBus_now : (releaseBus s).now = s.now := rfl
@[simp] theorem releaseBus_stop : (releaseBus s).stop = s.stop := rfl
@[simp] theorem releaseBus_stopped : (releaseBus s).stopped = s.stopped := rfl
@[simp] theorem releaseBus_parity : (releaseBus s).parity = s.parity := rfl
@[simp] theorem releaseBus_lineOut : (releaseBus s).lineOut = s.lineOut := rfl
@[simp] theorem releaseBus_wlog : (releaseBus s).wlog = s.wlog := rfl
@[simp] theorem releaseBus_dlog : (releaseBus s).dlog = s.dlog := rfl
@[simp] theorem releaseBus_line : (releaseBus s).line = s.line := rfl
@[simp] theorem releaseBus_turns : (releaseBus s).turns = s.turns := rfl
@[simp] theorem releaseBus_draws : (releaseBus s).draws = s.draws := rfl
@[simp] theorem releaseBus_wctl : (releaseBus s).wctl = s.wctl := rfl
@[simp] theorem releaseBus_dctl : (releaseBus s).dctl = s.dctl := rfl
@[simp] theorem releaseBus_wret : (releaseBus s).wret = s.wret := rfl
@[simp] theorem releaseBus_dret : (releaseBus s).dret = s.dret := rfl
@[simp] theorem releaseBus_pret : (releaseBus s).pret = s.pret := rfl
@[simp] theorem releaseBus_cks : (releaseBus s).cks = s.cks := rfl

/-! ### expectRead -/

@[simp] theorem expectRead_cfg (h : Header) : (expectRead h s).cfg = s.cfg := rfl
@[simp] theorem expectRead_frm (h : Header) : (expectRead h s).frm = s.frm := rfl
@[simp] theorem expectRead_arb (h : Header) : (expectRead h s).arb = { s.arb with bs := .read, rdexp := h } := rfl
@[simp] theorem expectRead_tx (h : Header) : (expectRead h s).tx = s.tx := rfl
@[simp] theorem expectRead_stats (h : Header) : (expectRead h s).stats = s.stats := rfl
@[simp] theorem expectRead_inq (h : Header) : (expectRead h s).inq = s.inq := rfl
@[simp] theorem expectRead_outq (h : Header) : (expectRead h s).outq = s.outq := rfl
@[simp] theorem expectRead_store (h : Header) : (expectRead h s).store = s.store := rfl
@[simp] theorem expectRead_now (h : Header) : (expectRead h s).now = s.now := rfl
@[simp] theorem expectRead_stop (h : Header) : (expectRead h s).stop = s.stop := rfl
@[simp] theorem expectRead_stopped (h : Header) : (expectRead h s).stopped = s.stopped := rfl
@[simp] theorem expectRead_parity (h : Header) : (expectRead h s).parity = s.parity := rfl
@[simp] theorem expectRead_lineOut (h : Header) : (expectRead h s).lineOut = s.lineOut := rfl
@[simp] theorem expectRead_wlog (h : Header) : (expectRead h s).wlog = s.wlog := rfl
@[simp] theorem expectRead_dlog (h : Header) : (expectRead h s).dlog = s.dlog := rfl
@[simp] theorem expectRead_line (h : Header) : (expectRead h s).line = s.line := rfl
@[simp] theorem expectRead_turns (h : Header) : (expectRead h s).turns = s.turns := rfl
@[simp] theorem expectRead_draws (h : Header) : (expectRead h s).draws = s.draws := rfl
@[simp] theorem expectRead_wctl (h : Header) : (expectRead h s).wctl = s.wctl := rfl
@[simp] theorem expectRead_dctl (h : Header) : (expectRead h s).dctl = s.dctl := rfl
@[simp] theorem expectRead_wret (h : Header) : (expectRead h s).wret = s.wret := rfl
@[simp] theorem expectRead_dret (h : Header) : (expectRead h s).dret = s.dret := rfl
@[simp] theorem expectRead_pret (h : Header) : (expectRead h s).pret = s.pret := rfl
@[simp] theorem expectRead_cks (h : Header) : (expectRead h s).cks = s.cks := rfl

/-! ### setTxp -/

@[simp] theorem setTxp_cfg (p : TxPhase) : (setTxp p s).cfg = s.cfg := rfl
@[simp] theorem setTxp_frm (p : TxPhase) : (setTxp p s).frm = s.frm := rfl
@[simp] theorem setTxp_arb (p : TxPhase) : (setTxp p s).arb = s.arb := rfl
@[simp] theorem setTxp_tx (p : TxPhase) : (setTxp p s).tx = { s.tx with txp := p } := rfl
@[simp] theorem setTxp_stats (p : TxPhase) : (setTxp p s).stats = s.stats := rfl
@[simp] theorem setTxp_inq (p : TxPhase) : (setTxp p s).inq = s.inq := rfl
@[simp] theorem setTxp_outq (p : TxPhase) : (setTxp p s).outq = s.outq := rfl
@[simp] theorem setTxp_store (p : TxPhase) : (setTxp p s).store = s.store := rfl
@[simp] theorem setTxp_now (p : TxPhase) : (setTxp p s).now = s.now := rfl
@[simp] theorem setTxp_stop (p : TxPhase) : (setTxp p s).stop = s.stop := rfl
@[simp] theorem setTxp_stopped (p : TxPhase) : (setTxp p s).stopped = s.stopped := rfl
@[simp] theorem setTxp_parity (p : TxPhase) : (setTxp p s).parity = s.parity := rfl
@[simp] theorem setTxp_lineOut (p : TxPhase) : (setTxp p s).lineOut = s.lineOut := rfl
@[simp] theorem setTxp_wlog (p : TxPhase) : (setTxp p s).wlog = s.wlog := rfl
@[simp] theorem setTxp_dlog (p : TxPhase) : (setTxp p s).dlog = s.dlog := rfl
@[simp] theorem setTxp_line (p : TxPhase) : (setTxp p s).line = s.line := rfl
@[simp] theorem setTxp_turns (p : TxPhase) : (setTxp p s).turns = s.turns := rfl
@[simp] theorem setTxp_draws (p : TxPhase) : (setTxp p s).draws = s.draws := rfl
@[simp] theorem setTxp_wctl (p : TxPhase) : (setTxp p s).wctl = s.wctl := rfl
@[simp] theorem setTxp_dctl (p : TxPhase) : (setTxp p s).dctl = s.dctl := rfl
@[simp] theorem setTxp_wret (p : TxPhase) : (setTxp p s).wret = s.wret := rfl
@[simp] theorem setTxp_dret (p : TxPhase) : (setTxp p s).dret = s.dret := rfl
@[simp] theorem setTxp_pret (p : TxPhase) : (setTxp p s).pret = s.pret := rfl
@[simp] theorem setTxp_cks (p : TxPhase) : (setTxp p s).cks = s.cks := rfl

/-! ### returnW -/

@[simp] theorem returnW_cfg (b : Bool) : (returnW b s).cfg = s.cfg := rfl
@[simp] theorem returnW_frm (b : Bool) : (returnW b s).frm = s.frm := rfl
@[simp] theorem returnW_arb (b : Bool) : (returnW b s).arb = s.arb := rfl
@[simp] theorem returnW_tx (b : Bool) : (returnW b s).tx = s.tx := rfl
@[simp] theorem returnW_stats (b : Bool) : (returnW b s).stats = s.stats := rfl
@[simp] theorem returnW_inq (b : Bool) : (returnW b s).inq = s.inq := rfl
@[simp] theorem returnW_outq (b : Bool) : (returnW b s).outq = s.outq := rfl
@[simp] theorem returnW_store (b : Bool) : (returnW b s).store = s.store := rfl
@[simp] theorem returnW_now (b : Bool) : (returnW b s).now = s.now := rfl
@[simp] theorem returnW_stop (b : Bool) : (returnW b s).stop = s.stop := rfl
@[simp] theorem returnW_stopped (b : Bool) : (returnW b s).stopped = s.stopped := rfl
@[simp] theorem returnW_parity (b : Bool) : (returnW b s).parity = s.parity := rfl
@[simp] theorem returnW_lineOut (b : Bool) : (returnW b s).lineOut = s.lineOut := rfl
@[simp] theorem returnW_wlog (b : Bool) : (returnW b s).wlog = s.wlog := rfl
@[simp] theorem returnW_dlog (b : Bool) : (returnW b s).dlog = s.dlog := rfl
@[simp] theorem returnW_line (b : Bool) : (returnW b s).line = s.line := rfl
@[simp] theorem returnW_turns (b : Bool) : (returnW b s).turns = s.turns := rfl
@[simp] theorem returnW_draws (b : Bool) : (returnW b s).draws = s.draws := rfl
@[simp] theorem returnW_wctl (b : Bool) : (returnW b s).wctl = s.wctl := rfl
@[simp] theorem returnW_dctl (b : Bool) : (returnW b s).dctl = s.dctl := rfl
@[simp] theorem returnW_wret (b : Bool) : (returnW b s).wret = b := rfl
@[simp] theorem returnW_dret (b : Bool) : (returnW b s).dret = s.dret := rfl
@[simp] theorem returnW_pret (b : Bool) : (returnW b s).pret = s.pret := rfl
@[simp] theorem returnW_cks (b : Bool) : (returnW b s).cks = s.cks := rfl

/-! ### computeChecksum -/

@[simp] theorem computeChecksum_cfg (l : List Byte) : (computeChecksum l s).cfg = s.cfg := rfl
@[simp] theorem computeChecksum_frm (l : List Byte) : (computeChecksum l s).frm = s.frm := rfl
@[simp] theorem computeChecksum_arb (l : List Byte) : (computeChecksum l s).arb = s.arb := rfl
@[simp] theorem computeChecksum_tx (l : List Byte) : (computeChecksum l s).tx = s.tx := rfl
@[simp] theorem computeChecksum_stats (l : List Byte) : (computeChecksum l s).stats = s.stats := rfl
@[simp] theorem computeChecksum_inq (l : List Byte) : (computeChecksum l s).inq = s.inq := rfl
@[simp] theorem computeChecksum_outq (l : List Byte) : (computeChecksum l s).outq = s.outq := rfl
@[simp] theorem computeChecksum_store (l : List Byte) : (computeChecksum l s).store = s.store := rfl
@[simp] theorem computeChecksum_now (l : List Byte) : (computeChecksum l s).now = s.now := rfl
@[simp] theorem computeChecksum_stop (l : List Byte) : (computeChecksum l s).stop = s.stop := rfl
@[simp] theorem computeChecksum_stopped (l : List Byte) : (computeChecksum l s).stopped = s.stopped := rfl
@[simp] theorem computeChecksum_parity (l : List Byte) : (computeChecksum l s).parity = s.parity := rfl
@[simp] theorem computeChecksum_lineOut (l : List Byte) : (computeChecksum l s).lineOut = s.lineOut := rfl
@[simp] theorem computeChecksum_wlog (l : List Byte) : (computeChecksum l s).wlog = s.wlog := rfl
@[simp] theorem computeChecksum_dlog (l : List Byte) : (computeChecksum l s).dlog = s.dlog := rfl
@[simp] theorem computeChecksum_line (l : List Byte) : (computeChecksum l s).line = s.line := rfl
@[simp] theorem computeChecksum_turns (l : List Byte) : (computeChecksum l s).turns = s.turns := rfl
@[simp] theorem computeChecksum_draws (l : List Byte) : (computeChecksum l s).draws = s.draws := rfl
@[simp] theorem computeChecksum_wctl (l : List Byte) : (computeChecksum l s).wctl = s.wctl := rfl
@[simp] theorem computeChecksum_dctl (l : List Byte) : (computeChecksum l s).dctl = s.dctl := rfl
@[simp] theorem computeChecksum_wret (l : List Byte) : (computeChecksum l s).wret = s.wret := rfl
@[simp] theorem computeChecksum_dret (l : List Byte) : (computeChecksum l s).dret = s.dret := rfl
@[simp] theorem computeChecksum_pret (l : List Byte) : (computeChecksum l s).pret = s.pret := rfl
@[simp] theorem computeChecksum_cks (l : List Byte) : (computeChecksum l s).cks = Config.checksum l := rfl

/-! ### setTxByte -/

@[simp] theorem setTxByte_cfg (i : Nat) (b : Byte) : (setTxByte i b s).cfg = s.cfg := rfl
@[simp] theorem setTxByte_frm (i : Nat) (b : Byte) : (setTxByte i b s).frm = s.frm := rfl
@[simp] theorem setTxByte_arb (i : Nat) (b : Byte) : (setTxByte i b s).arb = s.arb := rfl
@[simp] theorem setTxByte_tx (i : Nat) (b : Byte) : (setTxByte i b s).tx = { s.tx with txbuf := s.tx.txbuf.set i b } :=
  rfl
@[simp] theorem setTxByte_stats (i : Nat) (b : Byte) : (setTxByte i b s).stats = s.stats := rfl
@[simp] theorem setTxByte_inq (i : Nat) (b : Byte) : (setTxByte i b s).inq = s.inq := rfl
@[simp] theorem setTxByte_outq (i : Nat) (b : Byte) : (setTxByte i b s).outq = s.outq := rfl
@[simp] theorem setTxByte_store (i : Nat) (b : Byte) : (setTxByte i b s).store = s.store := rfl
@[simp] theorem setTxByte_now (i : Nat) (b : Byte) : (setTxByte i b s).now = s.now := rfl
@[simp] theorem setTxByte_stop (i : Nat) (b : Byte) : (setTxByte i b s).stop = s.stop := rfl
@[simp] theorem setTxByte_stopped (i : Nat) (b : Byte) : (setTxByte i b s).stopped = s.stopped := rfl
@[simp] theorem setTxByte_parity (i : Nat) (b : Byte) : (setTxByte i b s).parity = s.parity := rfl
@[simp] theorem setTxByte_lineOut (i : Nat) (b : Byte) : (setTxByte i b s).lineOut = s.lineOut := rfl
@[simp] theorem setTxByte_wlog (i : Nat) (b : Byte) : (setTxByte i b s).wlog = s.wlog := rfl
@[simp] theorem setTxByte_dlog (i : Nat) (b : Byte) : (setTxByte i b s).dlog = s.dlog := rfl
@[simp] theorem setTxByte_line (i : Nat) (b : Byte) : (setTxByte i b s).line = s.line := rfl
@[simp] theorem setTxByte_turns (i : Nat) (b : Byte) : (setTxByte i b s).turns = s.turns := rfl
@[simp] theorem setTxByte_draws (i : Nat) (b : Byte) : (setTxByte i b s).draws = s.draws := rfl
@[simp] theorem setTxByte_wctl (i : Nat) (b : Byte) : (setTxByte i b s).wctl = s.wctl := rfl
@[simp] theorem setTxByte_dctl (i : Nat) (b : Byte) : (setTxByte i b s).dctl = s.dctl := rfl
@[simp] theorem setTxByte_wret (i : Nat) (b : Byte) : (setTxByte i b s).wret = s.wret := rfl
@[simp] theorem setTxByte_dret (i : Nat) (b : Byte) : (setTxByte i b s).dret = s.dret := rfl
@[simp] theorem setTxByte_pret (i : Nat) (b : Byte) : (setTxByte i b s).pret = s.pret := rfl
@[simp] theorem setTxByte_cks (i : Nat) (b : Byte) : (setTxByte i b s).cks = s.cks := rfl

/-! ### loadTx -/

@[simp] theorem loadTx_cfg (p : List Byte) : (loadTx p s).cfg = s.cfg := rfl
@[simp] theorem loadTx_frm (p : List Byte) : (loadTx p s).frm = s.frm := rfl
@[simp] theorem loadTx_arb (p : List Byte) : (loadTx p s).arb = s.arb := rfl
@[simp] theorem loadTx_tx (p : List Byte) : (loadTx p s).tx = { s.tx with txbuf := p ++ s.tx.txbuf.drop p.length, txlen := p.length, txpend := true, retries := 0 } :=
  rfl
@[simp] theorem loadTx_stats (p : List Byte) : (loadTx p s).stats = s.stats := rfl
@[simp] theorem loadTx_inq (p : List Byte) : (loadTx p s).inq = s.inq := rfl
@[simp] theorem loadTx_outq (p : List Byte) : (loadTx p s).outq = s.outq := rfl
@[simp] theorem loadTx_store (p : List Byte) : (loadTx p s).store = s.store := rfl
@[simp] theorem loadTx_now (p : List Byte) : (loadTx p s).now = s.now := rfl
@[simp] theorem loadTx_stop (p : List Byte) : (loadTx p s).stop = s.stop := rfl
@[simp] theorem loadTx_stopped (p : List Byte) : (loadTx p s).stopped = s.stopped := rfl
@[simp] theorem loadTx_parity (p : List Byte) : (loadTx p s).parity = s.parity := rfl
@[simp] theorem loadTx_lineOut (p : List Byte) : (loadTx p s).lineOut = s.lineOut := rfl
@[simp] theorem loadTx_wlog (p : List Byte) : (loadTx p s).wlog = s.wlog := rfl
@[simp] theorem loadTx_dlog (p : List Byte) : (loadTx p s).dlog = s.dlog := rfl
@[simp] theorem loadTx_line (p : List Byte) : (loadTx p s).line = s.line := rfl
@[simp] theorem loadTx_turns (p : List Byte) : (loadTx p s).turns = s.turns := rfl
@[simp] theorem loadTx_draws (p : List Byte) : (loadTx p s).draws = s.draws := rfl
@[simp] theorem loadTx_wctl (p : List Byte) : (loadTx p s).wctl = s.wctl := rfl
@[simp] theorem loadTx_dctl (p : List Byte) : (loadTx p s).dctl = s.dctl := rfl
@[simp] theorem loadTx_wret (p : List Byte) : (loadTx p s).wret = s.wret := rfl
@[simp] theorem loadTx_dret (p : List Byte) : (loadTx p s).dret = s.dret := rfl
@[simp] theorem loadTx_pret (p : List Byte) : (loadTx p s).pret = s.pret := rfl
@[simp] theorem loadTx_cks (p : List Byte) : (loadTx p s).cks = s.cks := rfl

/-! ### dropTx -/

@[simp] theorem dropTx_cfg : (dropTx s).cfg = s.cfg := rfl
@[simp] theorem dropTx_frm : (dropTx s).frm = s.frm := rfl
@[simp] theorem dropTx_arb : (dropTx s).arb = s.arb := rfl
@[simp] theorem dropTx_tx : (dropTx s).tx = { s.tx with txpend := false, retries := 0 } := rfl
@[simp] theorem dropTx_stats : (dropTx s).stats = s.stats := rfl
@[simp] theorem dropTx_inq : (dropTx s).inq = s.inq := rfl
@[simp] theorem dropTx_outq : (dropTx s).outq = s.outq := rfl
@[simp] theorem dropTx_store : (dropTx s).store = s.store := rfl
@[simp] theorem dropTx_now : (dropTx s).now = s.now := rfl
@[simp] theorem dropTx_stop : (dropTx s).stop = s.stop := rfl
@[simp] theorem dropTx_stopped : (dropTx s).stopped = s.stopped := rfl
@[simp] theorem dropTx_parity : (dropTx s).parity = s.parity := rfl
@[simp] theorem dropTx_lineOut : (dropTx s).lineOut = s.lineOut := rfl
@[simp] theorem dropTx_wlog : (dropTx s).wlog = s.wlog := rfl
@[simp] theorem dropTx_dlog : (dropTx s).dlog = s.dlog := rfl
@[simp] theorem dropTx_line : (dropTx s).line = s.line := rfl
@[simp] theorem dropTx_turns : (dropTx s).turns = s.turns := rfl
@[simp] theorem dropTx_draws : (dropTx s).draws = s.draws := rfl
@[simp] theorem dropTx_wctl : (dropTx s).wctl = s.wctl := rfl
@[simp] theorem dropTx_dctl : (dropTx s).dctl = s.dctl := rfl
@[simp] theorem dropTx_wret : (dropTx s).wret = s.wret := rfl
@[simp] theorem dropTx_dret : (dropTx s).dret = s.dret := rfl
@[simp] theorem dropTx_pret : (dropTx s).pret = s.pret := rfl
@[simp] theorem dropTx_cks : (dropTx s).cks = s.cks := rfl

/-! ### pushIn -/

@[simp] theorem pushIn_cfg (p : List Byte) : (pushIn p s).cfg = s.cfg := rfl
@[simp] theorem pushIn_frm (p : List Byte) : (pushIn p s).frm = s.frm := rfl
@[simp] theorem pushIn_arb (p : List Byte) : (pushIn p s).arb = s.arb := rfl
@[simp] theorem pushIn_tx (p : List Byte) : (pushIn p s).tx = s.tx := rfl
@[simp] theorem pushIn_stats (p : List Byte) : (pushIn p s).stats = s.stats := rfl
@[simp] theorem pushIn_inq (p : List Byte) : (pushIn p s).inq = (qPush s.inq p).2 := rfl
@[simp] theorem pushIn_outq (p : List Byte) : (pushIn p s).outq = s.outq := rfl
@[simp] theorem pushIn_store (p : List Byte) : (pushIn p s).store = s.store := rfl
@[simp] theorem pushIn_now (p : List Byte) : (pushIn p s).now = s.now := rfl
@[simp] theorem pushIn_stop (p : List Byte) : (pushIn p s).stop = s.stop := rfl
@[simp] theorem pushIn_stopped (p : List Byte) : (pushIn p s).stopped = s.stopped := rfl
@[simp] theorem pushIn_parity (p : List Byte) : (pushIn p s).parity = s.parity := rfl
@[simp] theorem pushIn_lineOut (p : List Byte) : (pushIn p s).lineOut = s.lineOut := rfl
@[simp] theorem pushIn_wlog (p : List Byte) : (pushIn p s).wlog = s.wlog := rfl
@[simp] theorem pushIn_dlog (p : List Byte) : (pushIn p s).dlog = s.dlog := rfl
@[simp] theorem pushIn_line (p : List Byte) : (pushIn p s).line = s.line := rfl
@[simp] theorem pushIn_turns (p : List Byte) : (pushIn p s).turns = s.turns := rfl
@[simp] theorem pushIn_draws (p : List Byte) : (pushIn p s).draws = s.draws := rfl
@[simp] theorem pushIn_wctl (p : List Byte) : (pushIn p s).wctl = s.wctl := rfl
@[simp] theorem pushIn_dctl (p : List Byte) : (pushIn p s).dctl = s.dctl := rfl
@[simp] theorem pushIn_wret (p : List Byte) : (pushIn p s).wret = s.wret := rfl
@[simp] theorem pushIn_dret (p : List Byte) : (pushIn p s).dret = s.dret := rfl
@[simp] theorem pushIn_pret (p : List Byte) : (pushIn p s).pret = s.pret := rfl
@[simp] theorem pushIn_cks (p : List Byte) : (pushIn p s).cks = s.cks := rfl

/-! ### pushOut -/

@[simp] theorem pushOut_cfg (p : List Byte) : (pushOut p s).cfg = s.cfg := rfl
@[simp] theorem pushOut_frm (p : List Byte) : (pushOut p s).frm = s.frm := rfl
@[simp] theorem pushOut_arb (p : List Byte) : (pushOut p s).arb = s.arb := rfl
@[simp] theorem pushOut_tx (p : List Byte) : (pushOut p s).tx = s.tx := rfl
@[simp] theorem pushOut_stats (p : List Byte) : (pushOut p s).stats = s.stats := rfl
@[simp] theorem pushOut_inq (p : List Byte) : (pushOut p s).inq = s.inq := rfl
@[simp] theorem pushOut_outq (p : List Byte) : (pushOut p s).outq = (qPush s.outq p).2 := rfl
@[simp] theorem pushOut_store (p : List Byte) : (pushOut p s).store = s.store := rfl
@[simp] theorem pushOut_now (p : List Byte) : (pushOut p s).now = s.now := rfl
@[simp] theorem pushOut_stop (p : List Byte) : (pushOut p s).stop = s.stop := rfl
@[simp] theorem pushOut_stopped (p : List Byte) : (pushOut p s).stopped = s.stopped := rfl
@[simp] theorem pushOut_parity (p : List Byte) : (pushOut p s).parity = s.parity := rfl
@[simp] theorem pushOut_lineOut (p : List Byte) : (pushOut p s).lineOut = s.lineOut := rfl
@[simp] theorem pushOut_wlog (p : List Byte) : (pushOut p s).wlog = s.wlog := rfl
@[simp] theorem pushOut_dlog (p : List Byte) : (pushOut p s).dlog = s.dlog := rfl
@[simp] theorem pushOut_line (p : List Byte) : (pushOut p s).line = s.line := rfl
@[simp] theorem pushOut_turns (p : List Byte) : (pushOut p s).turns = s.turns := rfl
@[simp] theorem pushOut_draws (p : List Byte) : (pushOut p s).draws = s.draws := rfl
@[simp] theorem pushOut_wctl (p : List Byte) : (pushOut p s).wctl = s.wctl := rfl
@[simp] theorem pushOut_dctl (p : List Byte) : (pushOut p s).dctl = s.dctl := rfl
@[simp] theorem pushOut_wret (p : List Byte) : (pushOut p s).wret = s.wret := rfl
@[simp] theorem pushOut_dret (p : List Byte) : (pushOut p s).dret = s.dret := rfl
@[simp] theorem pushOut_pret (p : List Byte) : (pushOut p s).pret = (qPush s.outq p).1 := rfl
@[simp] theorem pushOut_cks (p : List Byte) : (pushOut p s).cks = s.cks := rfl

/-! ### lineWrite -/

@[simp] theorem lineWrite_cfg (b : Byte) : (lineWrite b s).cfg = s.cfg := rfl
@[simp] theorem lineWrite_frm (b : Byte) : (lineWrite b s).frm = s.frm := rfl
@[simp] theorem lineWrite_arb (b : Byte) : (lineWrite b s).arb = s.arb := rfl
@[simp] theorem lineWrite_tx (b : Byte) : (lineWrite b s).tx = s.tx := rfl
@[simp] theorem lineWrite_stats (b : Byte) : (lineWrite b s).stats = s.stats := rfl
@[simp] theorem lineWrite_inq (b : Byte) : (lineWrite b s).inq = s.inq := rfl
@[simp] theorem lineWrite_outq (b : Byte) : (lineWrite b s).outq = s.outq := rfl
@[simp] theorem lineWrite_store (b : Byte) : (lineWrite b s).store = s.store := rfl
@[simp] theorem lineWrite_now (b : Byte) : (lineWrite b s).now = s.now := rfl
@[simp] theorem lineWrite_stop (b : Byte) : (lineWrite b s).stop = s.stop := rfl
@[simp] theorem lineWrite_stopped (b : Byte) : (lineWrite b s).stopped = s.stopped := rfl
@[simp] theorem lineWrite_parity (b : Byte) : (lineWrite b s).parity = s.parity := rfl
@[simp] theorem lineWrite_lineOut (b : Byte) : (lineWrite b s).lineOut = s.lineOut ++ [.write b s.parity] := rfl
@[simp] theorem lineWrite_wlog (b : Byte) : (lineWrite b s).wlog = s.wlog := rfl
@[simp] theorem lineWrite_dlog (b : Byte) : (lineWrite b s).dlog = s.dlog := rfl
@[simp] theorem lineWrite_line (b : Byte) : (lineWrite b s).line = s.line := rfl
@[simp] theorem lineWrite_turns (b : Byte) : (lineWrite b s).turns = s.turns := rfl
@[simp] theorem lineWrite_draws (b : Byte) : (lineWrite b s).draws = s.draws := rfl
@[simp] theorem lineWrite_wctl (b : Byte) : (lineWrite b s).wctl = s.wctl := rfl
@[simp] theorem lineWrite_dctl (b : Byte) : (lineWrite b s).dctl = s.dctl := rfl
@[simp] theorem lineWrite_wret (b : Byte) : (lineWrite b s).wret = s.wret := rfl
@[simp] theorem lineWrite_dret (b : Byte) : (lineWrite b s).dret = s.dret := rfl
@[simp] theorem lineWrite_pret (b : Byte) : (lineWrite b s).pret = s.pret := rfl
@[simp] theorem lineWrite_cks (b : Byte) : (lineWrite b s).cks = s.cks := rfl

/-! ### lineSetParity -/

@[simp] theorem lineSetParity_cfg (p : Parity) : (lineSetParity p s).cfg = s.cfg := rfl
@[simp] theorem lineSetParity_frm (p : Parity) : (lineSetParity p s).frm = s.frm := rfl
@[simp] theorem lineSetParity_arb (p : Parity) : (lineSetParity p s).arb = s.arb := rfl
@[simp] theorem lineSetParity_tx (p : Parity) : (lineSetParity p s).tx = s.tx := rfl
@[simp] theorem lineSetParity_stats (p : Parity) : (lineSetParity p s).stats = s.stats := rfl
@[simp] theorem lineSetParity_inq (p : Parity) : (lineSetParity p s).inq = s.inq := rfl
@[simp] theorem lineSetParity_outq (p : Parity) : (lineSetParity p s).outq = s.outq := rfl
@[simp] theorem lineSetParity_store (p : Parity) : (lineSetParity p s).store = s.store := rfl
@[simp] theorem lineSetParity_now (p : Parity) : (lineSetParity p s).now = s.now := rfl
@[simp] theorem lineSetParity_stop (p : Parity) : (lineSetParity p s).stop = s.stop := rfl
@[simp] theorem lineSetParity_stopped (p : Parity) : (lineSetParity p s).stopped = s.stopped := rfl
@[simp] theorem lineSetParity_parity (p : Parity) : (lineSetParity p s).parity = p := rfl
@[simp] theorem lineSetParity_lineOut (p : Parity) : (lineSetParity p s).lineOut = s.lineOut ++ [.setParity p] := rfl
@[simp] theorem lineSetParity_wlog (p : Parity) : (lineSetParity p s).wlog = s.wlog := rfl
@[simp] theorem lineSetParity_dlog (p : Parity) : (lineSetParity p s).dlog = s.dlog := rfl
@[simp] theorem lineSetParity_line (p : Parity) : (lineSetParity p s).line = s.line := rfl
@[simp] theorem lineSetParity_turns (p : Parity) : (lineSetParity p s).turns = s.turns := rfl
@[simp] theorem lineSetParity_draws (p : Parity) : (lineSetParity p s).draws = s.draws := rfl
@[simp] theorem lineSetParity_wctl (p : Parity) : (lineSetParity p s).wctl = s.wctl := rfl
@[simp] theorem lineSetParity_dctl (p : Parity) : (lineSetParity p s).dctl = s.dctl := rfl
@[simp] theorem lineSetParity_wret (p : Parity) : (lineSetParity p s).wret = s.wret := rfl
@[simp] theorem lineSetParity_dret (p : Parity) : (lineSetParity p s).dret = s.dret := rfl
@[simp] theorem lineSetParity_pret (p : Parity) : (lineSetParity p s).pret = s.pret := rfl
@[simp] theorem lineSetParity_cks (p : Parity) : (lineSetParity p s).cks = s.cks := rfl

/-! ### writeFails -/

@[simp] theorem writeFails_cfg (e : Event) : (writeFails e s).cfg = s.cfg := rfl
@[simp] theorem writeFails_frm (e : Event) : (writeFails e s).frm = s.frm := rfl
@[simp] theorem writeFails_arb (e : Event) : (writeFails e s).arb = s.arb := rfl
@[simp] theorem writeFails_tx (e : Event) : (writeFails e s).tx = s.tx := rfl
@[simp] theorem writeFails_stats (e : Event) : (writeFails e s).stats = s.stats := rfl
@[simp] theorem writeFails_inq (e : Event) : (writeFails e s).inq = s.inq := rfl
@[simp] theorem writeFails_outq (e : Event) : (writeFails e s).outq = s.outq := rfl
@[simp] theorem writeFails_store (e : Event) : (writeFails e s).store = s.store := rfl
@[simp] theorem writeFails_now (e : Event) : (writeFails e s).now = s.now := rfl
@[simp] theorem writeFails_stop (e : Event) : (writeFails e s).stop = s.stop := rfl
@[simp] theorem writeFails_stopped (e : Event) : (writeFails e s).stopped = s.stopped := rfl
@[simp] theorem writeFails_parity (e : Event) : (writeFails e s).parity = s.parity := rfl
@[simp] theorem writeFails_lineOut (e : Event) : (writeFails e s).lineOut = s.lineOut := rfl
@[simp] theorem writeFails_wlog (e : Event) : (writeFails e s).wlog = s.wlog ++ [e] := rfl
@[simp] theorem writeFails_dlog (e : Event) : (writeFails e s).dlog = s.dlog := rfl
@[simp] theorem writeFails_line (e : Event) : (writeFails e s).line = s.line := rfl
@[simp] theorem writeFails_turns (e : Event) : (writeFails e s).turns = s.turns := rfl
@[simp] theorem writeFails_draws (e : Event) : (writeFails e s).draws = s.draws := rfl
@[simp] theorem writeFails_wctl (e : Event) : (writeFails e s).wctl = s.wctl := rfl
@[simp] theorem writeFails_dctl (e : Event) : (writeFails e s).dctl = s.dctl := rfl
@[simp] theorem writeFails_wret (e : Event) : (writeFails e s).wret = false := rfl
@[simp] theorem writeFails_dret (e : Event) : (writeFails e s).dret = s.dret := rfl
@[simp] theorem writeFails_pret (e : Event) : (writeFails e s).pret = s.pret := rfl
@[simp] theorem writeFails_cks (e : Event) : (writeFails e s).cks = s.cks := rfl

/-! ### stopWorker -/

@[simp] theorem stopWorker_cfg : (stopWorker s).cfg = s.cfg := rfl
@[simp] theorem stopWorker_frm : (stopWorker s).frm = s.frm := rfl
@[simp] theorem stopWorker_arb : (stopWorker s).arb = s.arb := rfl
@[simp] theorem stopWorker_tx : (stopWorker s).tx = { s.tx with txp := .idle } := rfl
@[simp] theorem stopWorker_stats : (stopWorker s).stats = s.stats := rfl
@[simp] theorem stopWorker_inq : (stopWorker s).inq = s.inq := rfl
@[simp] theorem stopWorker_outq : (stopWorker s).outq = s.outq := rfl
@[simp] theorem stopWorker_store : (stopWorker s).store = s.store := rfl
@[simp] theorem stopWorker_now : (stopWorker s).now = s.now := rfl
@[simp] theorem stopWorker_stop : (stopWorker s).stop = s.stop := rfl
@[simp] theorem stopWorker_stopped : (stopWorker s).stopped = true := rfl
@[simp] theorem stopWorker_parity : (stopWorker s).parity = s.parity := rfl
@[simp] theorem stopWorker_lineOut : (stopWorker s).lineOut = s.lineOut := rfl
@[simp] theorem stopWorker_wlog : (stopWorker s).wlog = s.wlog := rfl
@[simp] theorem stopWorker_dlog : (stopWorker s).dlog = s.dlog := rfl
@[simp] theorem stopWorker_line : (stopWorker s).line = s.line := rfl
@[simp] theorem stopWorker_turns : (stopWorker s).turns = s.turns := rfl
@[simp] theorem stopWorker_draws : (stopWorker s).draws = s.draws := rfl
@[simp] theorem stopWorker_wctl : (stopWorker s).wctl = [] := rfl
@[simp] theorem stopWorker_dctl : (stopWorker s).dctl = s.dctl := rfl
@[simp] theorem stopWorker_wret : (stopWorker s).wret = s.wret := rfl
@[simp] theorem stopWorker_dret : (stopWorker s).dret = s.dret := rfl
@[simp] theorem stopWorker_pret : (stopWorker s).pret = s.pret := rfl
@[simp] theorem stopWorker_cks : (stopWorker s).cks = s.cks := rfl

/-! ### filterPass -/

@[simp] theorem filterPass_cfg : (filterPass s).cfg = s.cfg := rfl
@[simp] theorem filterPass_frm : (filterPass s).frm = s.frm := rfl
@[simp] theorem filterPass_arb : (filterPass s).arb = s.arb := rfl
@[simp] theorem filterPass_tx : (filterPass s).tx = s.tx := rfl
@[simp] theorem filterPass_stats : (filterPass s).stats = s.stats := rfl
@[simp] theorem filterPass_inq : (filterPass s).inq = s.inq := rfl
@[simp] theorem filterPass_outq : (filterPass s).outq = s.outq := rfl
@[simp] theorem filterPass_store : (filterPass s).store = s.store := rfl
@[simp] theorem filterPass_now : (filterPass s).now = s.now := rfl
@[simp] theorem filterPass_stop : (filterPass s).stop = s.stop := rfl
@[simp] theorem filterPass_stopped : (filterPass s).stopped = s.stopped := rfl
@[simp] theorem filterPass_parity : (filterPass s).parity = s.parity := rfl
@[simp] theorem filterPass_lineOut : (filterPass s).lineOut = s.lineOut := rfl
@[simp] theorem filterPass_wlog : (filterPass s).wlog = s.wlog := rfl
@[simp] theorem filterPass_dlog : (filterPass s).dlog = s.dlog := rfl
@[simp] theorem filterPass_line : (filterPass s).line = s.line := rfl
@[simp] theorem filterPass_turns : (filterPass s).turns = s.turns := rfl
@[simp] theorem filterPass_draws : (filterPass s).draws = s.draws := rfl
@[simp] theorem filterPass_wctl : (filterPass s).wctl = s.wctl := rfl
@[simp] theorem filterPass_dctl : (filterPass s).dctl = s.dctl := rfl
@[simp] theorem filterPass_wret : (filterPass s).wret = s.wret := rfl
@[simp] theorem filterPass_dret : (filterPass s).dret = true := rfl
@[simp] theorem filterPass_pret : (filterPass s).pret = s.pret := rfl
@[simp] theorem filterPass_cks : (filterPass s).cks = s.cks := rfl

/-! ### commitFast -/

@[simp] theorem commitFast_cfg (u : RecFast) : (commitFast u s).cfg = s.cfg := rfl
@[simp] theorem commitFast_frm (u : RecFast) : (commitFast u s).frm = s.frm := rfl
@[simp] theorem commitFast_arb (u : RecFast) : (commitFast u s).arb = s.arb := rfl
@[simp] theorem commitFast_tx (u : RecFast) : (commitFast u s).tx = s.tx := rfl
@[simp] theorem commitFast_stats (u : RecFast) : (commitFast u s).stats = s.stats := rfl
@[simp] theorem commitFast_inq (u : RecFast) : (commitFast u s).inq = s.inq := rfl
@[simp] theorem commitFast_outq (u : RecFast) : (commitFast u s).outq = s.outq := rfl
@[simp] theorem commitFast_now (u : RecFast) : (commitFast u s).now = s.now := rfl
@[simp] theorem commitFast_stop (u : RecFast) : (commitFast u s).stop = s.stop := rfl
@[simp] theorem commitFast_stopped (u : RecFast) : (commitFast u s).stopped = s.stopped := rfl
@[simp] theorem commitFast_parity (u : RecFast) : (commitFast u s).parity = s.parity := rfl
@[simp] theorem commitFast_lineOut (u : RecFast) : (commitFast u s).lineOut = s.lineOut := rfl
@[simp] theorem commitFast_wlog (u : RecFast) : (commitFast u s).wlog = s.wlog := rfl
@[simp] theorem commitFast_dlog (u : RecFast) : (commitFast u s).dlog = s.dlog := rfl
@[simp] theorem commitFast_line (u : RecFast) : (commitFast u s).line = s.line := rfl
@[simp] theorem commitFast_turns (u : RecFast) : (commitFast u s).turns = s.turns := rfl
@[simp] theorem commitFast_draws (u : RecFast) : (commitFast u s).draws = s.draws := rfl
@[simp] theorem commitFast_wctl (u : RecFast) : (commitFast u s).wctl = s.wctl := rfl
@[simp] theorem commitFast_dctl (u : RecFast) : (commitFast u s).dctl = s.dctl := rfl
@[simp] theorem commitFast_wret (u : RecFast) : (commitFast u s).wret = s.wret := rfl
@[simp] theorem commitFast_dret (u : RecFast) : (commitFast u s).dret = s.dret := rfl
@[simp] theorem commitFast_pret (u : RecFast) : (commitFast u s).pret = s.pret := rfl
@[simp] theorem commitFast_cks (u : RecFast) : (commitFast u s).cks = s.cks := rfl
@[simp] theorem commitFast_store_slow (u : RecFast) : (commitFast u s).store.slow = s.store.slow := rfl
@[simp] theorem commitFast_store_ww (u : RecFast) : (commitFast u s).store.ww = s.store.ww := rfl
@[simp] theorem commitFast_store_time (u : RecFast) : (commitFast u s).store.time = s.store.time := rfl
@[simp] theorem commitFast_store_mode (u : RecFast) : (commitFast u s).store.mode = s.store.mode := rfl
@[simp] theorem commitFast_store_err (u : RecFast) : (commitFast u s).store.err = s.store.err := rfl

/-! ### commitSlow -/

@[simp] theorem commitSlow_cfg (u : RecSlow) : (commitSlow u s).cfg = s.cfg := rfl
@[simp] theorem commitSlow_frm (u : RecSlow) : (commitSlow u s).frm = s.frm := rfl
@[simp] theorem commitSlow_arb (u : RecSlow) : (commitSlow u s).arb = s.arb := rfl
@[simp] theorem commitSlow_tx (u : RecSlow) : (commitSlow u s).tx = s.tx := rfl
@[simp] theorem commitSlow_stats (u : RecSlow) : (commitSlow u s).stats = s.stats := rfl
@[simp] theorem commitSlow_inq (u : RecSlow) : (commitSlow u s).inq = s.inq := rfl
@[simp] theorem commitSlow_outq (u : RecSlow) : (commitSlow u s).outq = s.outq := rfl
@[simp] theorem commitSlow_now (u : RecSlow) : (commitSlow u s).now = s.now := rfl
@[simp] theorem commitSlow_stop (u : RecSlow) : (commitSlow u s).stop = s.stop := rfl
@[simp] theorem commitSlow_stopped (u : RecSlow) : (commitSlow u s).stopped = s.stopped := rfl
@[simp] theorem commitSlow_parity (u : RecSlow) : (commitSlow u s).parity = s.parity := rfl
@[simp] theorem commitSlow_lineOut (u : RecSlow) : (commitSlow u s).lineOut = s.lineOut := rfl
@[simp] theorem commitSlow_wlog (u : RecSlow) : (commitSlow u s).wlog = s.wlog := rfl
@[simp] theorem commitSlow_dlog (u : RecSlow) : (commitSlow u s).dlog = s.dlog := rfl
@[simp] theorem commitSlow_line (u : RecSlow) : (commitSlow u s).line = s.line := rfl
@[simp] theorem commitSlow_turns (u : RecSlow) : (commitSlow u s).turns = s.turns := rfl
@[simp] theorem commitSlow_draws (u : RecSlow) : (commitSlow u s).draws = s.draws := rfl
@[simp] theorem commitSlow_wctl (u : RecSlow) : (commitSlow u s).wctl = s.wctl := rfl
@[simp] theorem commitSlow_dctl (u : RecSlow) : (commitSlow u s).dctl = s.dctl := rfl
@[simp] theorem commitSlow_wret (u : RecSlow) : (commitSlow u s).wret = s.wret := rfl
@[simp] theorem commitSlow_dret (u : RecSlow) : (commitSlow u s).dret = s.dret := rfl
@[simp] theorem commitSlow_pret (u : RecSlow) : (commitSlow u s).pret = s.pret := rfl
@[simp] theorem commitSlow_cks (u : RecSlow) : (commitSlow u s).cks = s.cks := rfl
@[simp] theorem commitSlow_store_fast (u : RecSlow) : (commitSlow u s).store.fast = s.store.fast := rfl
@[simp] theorem commitSlow_store_ww (u : RecSlow) : (commitSlow u s).store.ww = s.store.ww := rfl
@[simp] theorem commitSlow_store_time (u : RecSlow) : (commitSlow u s).store.time = s.store.time := rfl
@[simp] theorem commitSlow_store_mode (u : RecSlow) : (commitSlow u s).store.mode = s.store.mode := rfl
@[simp] theorem commitSlow_store_err (u : RecSlow) : (commitSlow u s).store.err = s.store.err := rfl

/-! ### commitWw -/

@[simp] theorem commitWw_cfg (u : RecWw) : (commitWw u s).cfg = s.cfg := rfl
@[simp] theorem commitWw_frm (u : RecWw) : (commitWw u s).frm = s.frm := rfl
@[simp] theorem commitWw_arb (u : RecWw) : (commitWw u s).arb = s.arb := rfl
@[simp] theorem commitWw_tx (u : RecWw) : (commitWw u s).tx = s.tx := rfl
@[simp] theorem commitWw_stats (u : RecWw) : (commitWw u s).stats = s.stats := rfl
@[simp] theorem commitWw_inq (u : RecWw) : (commitWw u s).inq = s.inq := rfl
@[simp] theorem commitWw_outq (u : RecWw) : (commitWw u s).outq = s.outq := rfl
@[simp] theorem commitWw_now (u : RecWw) : (commitWw u s).now = s.now := rfl
@[simp] theorem commitWw_stop (u : RecWw) : (commitWw u s).stop = s.stop := rfl
@[simp] theorem commitWw_stopped (u : RecWw) : (commitWw u s).stopped = s.stopped := rfl
@[simp] theorem commitWw_parity (u : RecWw) : (commitWw u s).parity = s.parity := rfl
@[simp] theorem commitWw_lineOut (u : RecWw) : (commitWw u s).lineOut = s.lineOut := rfl
@[simp] theorem commitWw_wlog (u : RecWw) : (commitWw u s).wlog = s.wlog := rfl
@[simp] theorem commitWw_dlog (u : RecWw) : (commitWw u s).dlog = s.dlog := rfl
@[simp] theorem commitWw_line (u : RecWw) : (commitWw u s).line = s.line := rfl
@[simp] theorem commitWw_turns (u : RecWw) : (commitWw u s).turns = s.turns := rfl
@[simp] theorem commitWw_draws (u : RecWw) : (commitWw u s).draws = s.draws := rfl
@[simp] theorem commitWw_wctl (u : RecWw) : (commitWw u s).wctl = s.wctl := rfl
@[simp] theorem commitWw_dctl (u : RecWw) : (commitWw u s).dctl = s.dctl := rfl
@[simp] theorem commitWw_wret (u : RecWw) : (commitWw u s).wret = s.wret := rfl
@[simp] theorem commitWw_dret (u : RecWw) : (commitWw u s).dret = s.dret := rfl
@[simp] theorem commitWw_pret (u : RecWw) : (commitWw u s).pret = s.pret := rfl
@[simp] theorem commitWw_cks (u : RecWw) : (commitWw u s).cks = s.cks := rfl
@[simp] theorem commitWw_store_fast (u : RecWw) : (commitWw u s).store.fast = s.store.fast := rfl
@[simp] theorem commitWw_store_slow (u : RecWw) : (commitWw u s).store.slow = s.store.slow := rfl
@[simp] theorem commitWw_store_time (u : RecWw) : (commitWw u s).store.time = s.store.time := rfl
@[simp] theorem commitWw_store_mode (u : RecWw) : (commitWw u s).store.mode = s.store.mode := rfl
@[simp] theorem commitWw_store_err (u : RecWw) : (commitWw u s).store.err = s.store.err := rfl

/-! ### commitTime -/

@[simp] theorem commitTime_cfg (u : RecTime) : (commitTime u s).cfg = s.cfg := rfl
@[simp] theorem commitTime_frm (u : RecTime) : (commitTime u s).frm = s.frm := rfl
@[simp] theorem commitTime_arb (u : RecTime) : (commitTime u s).arb = s.arb := rfl
@[simp] theorem commitTime_tx (u : RecTime) : (commitTime u s).tx = s.tx := rfl
@[simp] theorem commitTime_stats (u : RecTime) : (commitTime u s).stats = s.stats := rfl
@[simp] theorem commitTime_inq (u : RecTime) : (commitTime u s).inq = s.inq := rfl
@[simp] theorem commitTime_outq (u : RecTime) : (commitTime u s).outq = s.outq := rfl
@[simp] theorem commitTime_now (u : RecTime) : (commitTime u s).now = s.now := rfl
@[simp] theorem commitTime_stop (u : RecTime) : (commitTime u s).stop = s.stop := rfl
@[simp] theorem commitTime_stopped (u : RecTime) : (commitTime u s).stopped = s.stopped := rfl
@[simp] theorem commitTime_parity (u : RecTime) : (commitTime u s).parity = s.parity := rfl
@[simp] theorem commitTime_lineOut (u : RecTime) : (commitTime u s).lineOut = s.lineOut := rfl
@[simp] theorem commitTime_wlog (u : RecTime) : (commitTime u s).wlog = s.wlog := rfl
@[simp] theorem commitTime_dlog (u : RecTime) : (commitTime u s).dlog = s.dlog := rfl
@[simp] theorem commitTime_line (u : RecTime) : (commitTime u s).line = s.line := rfl
@[simp] theorem commitTime_turns (u : RecTime) : (commitTime u s).turns = s.turns := rfl
@[simp] theorem commitTime_draws (u : RecTime) : (commitTime u s).draws = s.draws := rfl
@[simp] theorem commitTime_wctl (u : RecTime) : (commitTime u s).wctl = s.wctl := rfl
@[simp] theorem commitTime_dctl (u : RecTime) : (commitTime u s).dctl = s.dctl := rfl
@[simp] theorem commitTime_wret (u : RecTime) : (commitTime u s).wret = s.wret := rfl
@[simp] theorem commitTime_dret (u : RecTime) : (commitTime u s).dret = s.dret := rfl
@[simp] theorem commitTime_pret (u : RecTime) : (commitTime u s).pret = s.pret := rfl
@[simp] theorem commitTime_cks (u : RecTime) : (commitTime u s).cks = s.cks := rfl
@[simp] theorem commitTime_store_fast (u : RecTime) : (commitTime u s).store.fast = s.store.fast := rfl
@[simp] theorem commitTime_store_slow (u : RecTime) : (commitTime u s).store.slow = s.store.slow := rfl
@[simp] theorem commitTime_store_ww (u : RecTime) : (commitTime u s).store.ww = s.store.ww := rfl
@[simp] theorem commitTime_store_mode (u : RecTime) : (commitTime u s).store.mode = s.store.mode := rfl
@[simp] theorem commitTime_store_err (u : RecTime) : (commitTime u s).store.err = s.store.err := rfl

/-! ### commitMode -/

@[simp] theorem commitMode_cfg (u : RecMode) : (commitMode u s).cfg = s.cfg := rfl
@[simp] theorem commitMode_frm (u : RecMode) : (commitMode u s).frm = s.frm := rfl
@[simp] theorem commitMode_arb (u : RecMode) : (commitMode u s).arb = s.arb := rfl
@[simp] theorem commitMode_tx (u : RecMode) : (commitMode u s).tx = s.tx := rfl
@[simp] theorem commitMode_stats (u : RecMode) : (commitMode u s).stats = s.stats := rfl
@[simp] theorem commitMode_inq (u : RecMode) : (commitMode u s).inq = s.inq := rfl
@[simp] theorem commitMode_outq (u : RecMode) : (commitMode u s).outq = s.outq := rfl
@[simp] theorem commitMode_now (u : RecMode) : (commitMode u s).now = s.now := rfl
@[simp] theorem commitMode_stop (u : RecMode) : (commitMode u s).stop = s.stop := rfl
@[simp] theorem commitMode_stopped (u : RecMode) : (commitMode u s).stopped = s.stopped := rfl
@[simp] theorem commitMode_parity (u : RecMode) : (commitMode u s).parity = s.parity := rfl
@[simp] theorem commitMode_lineOut (u : RecMode) : (commitMode u s).lineOut = s.lineOut := rfl
@[simp] theorem commitMode_wlog (u : RecMode) : (commitMode u s).wlog = s.wlog := rfl
@[simp] theorem commitMode_dlog (u : RecMode) : (commitMode u s).dlog = s.dlog := rfl
@[simp] theorem commitMode_line (u : RecMode) : (commitMode u s).line = s.line := rfl
@[simp] theorem commitMode_turns (u : RecMode) : (commitMode u s).turns = s.turns := rfl
@[simp] theorem commitMode_draws (u : RecMode) : (commitMode u s).draws = s.draws := rfl
@[simp] theorem commitMode_wctl (u : RecMode) : (commitMode u s).wctl = s.wctl := rfl
@[simp] theorem commitMode_dctl (u : RecMode) : (commitMode u s).dctl = s.dctl := rfl
@[simp] theorem commitMode_wret (u : RecMode) : (commitMode u s).wret = s.wret := rfl
@[simp] theorem commitMode_dret (u : RecMode) : (commitMode u s).dret = s.dret := rfl
@[simp] theorem commitMode_pret (u : RecMode) : (commitMode u s).pret = s.pret := rfl
@[simp] theorem commitMode_cks (u : RecMode) : (commitMode u s).cks = s.cks := rfl
@[simp] theorem commitMode_store_fast (u : RecMode) : (commitMode u s).store.fast = s.store.fast := rfl
@[simp] theorem commitMode_store_slow (u : RecMode) : (commitMode u s).store.slow = s.store.slow := rfl
@[simp] theorem commitMode_store_ww (u : RecMode) : (commitMode u s).store.ww = s.store.ww := rfl
@[simp] theorem commitMode_store_time (u : RecMode) : (commitMode u s).store.time = s.store.time := rfl
@[simp] theorem commitMode_store_err (u : RecMode) : (commitMode u s).store.err = s.store.err := rfl

/-! ### commitErr -/

@[simp] theorem commitErr_cfg (u : RecErr) : (commitErr u s).cfg = s.cfg := rfl
@[simp] theorem commitErr_frm (u : RecErr) : (commitErr u s).frm = s.frm := rfl
@[simp] theorem commitErr_arb (u : RecErr) : (commitErr u s).arb = s.arb := rfl
@[simp] theorem commitErr_tx (u : RecErr) : (commitErr u s).tx = s.tx := rfl
@[simp] theorem commitErr_stats (u : RecErr) : (commitErr u s).stats = s.stats := rfl
@[simp] theorem commitErr_inq (u : RecErr) : (commitErr u s).inq = s.inq := rfl
@[simp] theorem commitErr_outq (u : RecErr) : (commitErr u s).outq = s.outq := rfl
@[simp] theorem commitErr_now (u : RecErr) : (commitErr u s).now = s.now := rfl
@[simp] theorem commitErr_stop (u : RecErr) : (commitErr u s).stop = s.stop := rfl
@[simp] theorem commitErr_stopped (u : RecErr) : (commitErr u s).stopped = s.stopped := rfl
@[simp] theorem commitErr_parity (u : RecErr) : (commitErr u s).parity = s.parity := rfl
@[simp] theorem commitErr_lineOut (u : RecErr) : (commitErr u s).lineOut = s.lineOut := rfl
@[simp] theorem commitErr_wlog (u : RecErr) : (commitErr u s).wlog = s.wlog := rfl
@[simp] theorem commitErr_dlog (u : RecErr) : (commitErr u s).dlog = s.dlog := rfl
@[simp] theorem commitErr_line (u : RecErr) : (commitErr u s).line = s.line := rfl
@[simp] theorem commitErr_turns (u : RecErr) : (commitErr u s).turns = s.turns := rfl
@[simp] theorem commitErr_draws (u : RecErr) : (commitErr u s).draws = s.draws := rfl
@[simp] theorem commitErr_wctl (u : RecErr) : (commitErr u s).wctl = s.wctl := rfl
@[simp] theorem commitErr_dctl (u : RecErr) : (commitErr u s).dctl = s.dctl := rfl
@[simp] theorem commitErr_wret (u : RecErr) : (commitErr u s).wret = s.wret := rfl
@[simp] theorem commitErr_dret (u : RecErr) : (commitErr u s).dret = s.dret := rfl
@[simp] theorem commitErr_pret (u : RecErr) : (commitErr u s).pret = s.pret := rfl
@[simp] theorem commitErr_cks (u : RecErr) : (commitErr u s).cks = s.cks := rfl
@[simp] theorem commitErr_store_fast (u : RecErr) : (commitErr u s).store.fast = s.store.fast := rfl
@[simp] theorem commitErr_store_slow (u : RecErr) : (commitErr u s).store.slow = s.store.slow := rfl
@[simp] theorem commitErr_store_ww (u : RecErr) : (commitErr u s).store.ww = s.store.ww := rfl
@[simp] theorem commitErr_store_time (u : RecErr) : (commitErr u s).store.time = s.store.time := rfl
@[simp] theorem commitErr_store_mode (u : RecErr) : (commitErr u s).store.mode = s.store.mode := rfl

/-! ### invokeIfOwn -/

@[simp] theorem invokeIfOwn_cfg : (invokeIfOwn s).cfg = s.cfg := by unfold invokeIfOwn; split <;> rfl
@[simp] theorem invokeIfOwn_frm : (invokeIfOwn s).frm = s.frm := by unfold invokeIfOwn; split <;> rfl
@[simp] theorem invokeIfOwn_arb : (invokeIfOwn s).arb = s.arb := by unfold invokeIfOwn; split <;> rfl
@[simp] theorem invokeIfOwn_tx : (invokeIfOwn s).tx = s.tx := by unfold invokeIfOwn; split <;> rfl
@[simp] theorem invokeIfOwn_stats : (invokeIfOwn s).stats = s.stats := by unfold invokeIfOwn; split <;> rfl
@[simp] theorem invokeIfOwn_inq : (invokeIfOwn s).inq = s.inq := by unfold invokeIfOwn; split <;> rfl
@[simp] theorem invokeIfOwn_outq : (invokeIfOwn s).outq = s.outq := by unfold invokeIfOwn; split <;> rfl
@[simp] theorem invokeIfOwn_store : (invokeIfOwn s).store = s.store := by unfold invokeIfOwn; split <;> rfl
@[simp] theorem invokeIfOwn_now : (invokeIfOwn s).now = s.now := by unfold invokeIfOwn; split <;> rfl
@[simp] theorem invokeIfOwn_stop : (invokeIfOwn s).stop = s.stop := by unfold invokeIfOwn; split <;> rfl
@[simp] theorem invokeIfOwn_stopped : (invokeIfOwn s).stopped = s.stopped := by unfold invokeIfOwn; split <;> rfl
@[simp] theorem invokeIfOwn_parity : (invokeIfOwn s).parity = s.parity := by unfold invokeIfOwn; split <;> rfl
@[simp] theorem invokeIfOwn_lineOut : (invokeIfOwn s).lineOut = s.lineOut := by unfold invokeIfOwn; split <;> rfl
@[simp] theorem invokeIfOwn_wlog : (invokeIfOwn s).wlog = s.wlog := by unfold invokeIfOwn; split <;> rfl
@[simp] theorem invokeIfOwn_dlog : (invokeIfOwn s).dlog = s.dlog := by unfold invokeIfOwn; split <;> rfl
@[simp] theorem invokeIfOwn_line : (invokeIfOwn s).line = s.line := by unfold invokeIfOwn; split <;> rfl
@[simp] theorem invokeIfOwn_turns : (invokeIfOwn s).turns = s.turns := by unfold invokeIfOwn; split <;> rfl
@[simp] theorem invokeIfOwn_draws : (invokeIfOwn s).draws = s.draws := by unfold invokeIfOwn; split <;> rfl
@[simp] theorem invokeIfOwn_wctl : (invokeIfOwn s).wctl = if ownBus s then .op .txInvoke :: s.wctl else s.wctl :=
  by unfold invokeIfOwn; split <;> rfl
@[simp] theorem invokeIfOwn_dctl : (invokeIfOwn s).dctl = s.dctl := by unfold invokeIfOwn; split <;> rfl
@[simp] theorem invokeIfOwn_wret : (invokeIfOwn s).wret = s.wret := by unfold invokeIfOwn; split <;> rfl
@[simp] theorem invokeIfOwn_dret : (invokeIfOwn s).dret = s.dret := by unfold invokeIfOwn; split <;> rfl
@[simp] theorem invokeIfOwn_pret : (invokeIfOwn s).pret = s.pret := by unfold invokeIfOwn; split <;> rfl
@[simp] theorem invokeIfOwn_cks : (invokeIfOwn s).cks = s.cks := by unfold invokeIfOwn; split <;> rfl

/-! ### macCheck -/

@[simp] theorem macCheck_cfg (ok : Bool) (k : MacCause) (v : Byte) : (macCheck ok k v s).cfg = s.cfg :=
  by cases ok <;> rfl
@[simp] theorem macCheck_frm (ok : Bool) (k : MacCause) (v : Byte) : (macCheck ok k v s).frm = s.frm :=
  by cases ok <;> rfl
@[simp] theorem macCheck_arb (ok : Bool) (k : MacCause) (v : Byte) : (macCheck ok k v s).arb = s.arb :=
  by cases ok <;> rfl
@[simp] theorem macCheck_tx (ok : Bool) (k : MacCause) (v : Byte) : (macCheck ok k v s).tx = s.tx := by cases ok <;> rfl
@[simp] theorem macCheck_stats (ok : Bool) (k : MacCause) (v : Byte) : (macCheck ok k v s).stats = if ok then s.stats else statsInc .macErr s.stats :=
  by cases ok <;> rfl
@[simp] theorem macCheck_inq (ok : Bool) (k : MacCause) (v : Byte) : (macCheck ok k v s).inq = s.inq :=
  by cases ok <;> rfl
@[simp] theorem macCheck_outq (ok : Bool) (k : MacCause) (v : Byte) : (macCheck ok k v s).outq = s.outq :=
  by cases ok <;> rfl
@[simp] theorem macCheck_store (ok : Bool) (k : MacCause) (v : Byte) : (macCheck ok k v s).store = s.store :=
  by cases ok <;> rfl
@[simp] theorem macCheck_now (ok : Bool) (k : MacCause) (v : Byte) : (macCheck ok k v s).now = s.now :=
  by cases ok <;> rfl
@[simp] theorem macCheck_stop (ok : Bool) (k : MacCause) (v : Byte) : (macCheck ok k v s).stop = s.stop :=
  by cases ok <;> rfl
@[simp] theorem macCheck_stopped (ok : Bool) (k : MacCause) (v : Byte) : (macCheck ok k v s).stopped = s.stopped :=
  by cases ok <;> rfl
@[simp] theorem macCheck_parity (ok : Bool) (k : MacCause) (v : Byte) : (macCheck ok k v s).parity = s.parity :=
  by cases ok <;> rfl
@[simp] theorem macCheck_lineOut (ok : Bool) (k : MacCause) (v : Byte) : (macCheck ok k v s).lineOut = s.lineOut :=
  by cases ok <;> rfl
@[simp] theorem macCheck_wlog (ok : Bool) (k : MacCause) (v : Byte) : (macCheck ok k v s).wlog = if ok then s.wlog else s.wlog ++ [.macErr k v s.arb.bs] :=
  by cases ok <;> rfl
@[simp] theorem macCheck_dlog (ok : Bool) (k : MacCause) (v : Byte) : (macCheck ok k v s).dlog = s.dlog :=
  by cases ok <;> rfl
@[simp] theorem macCheck_line (ok : Bool) (k : MacCause) (v : Byte) : (macCheck ok k v s).line = s.line :=
  by cases ok <;> rfl
@[simp] theorem macCheck_turns (ok : Bool) (k : MacCause) (v : Byte) : (macCheck ok k v s).turns = s.turns :=
  by cases ok <;> rfl
@[simp] theorem macCheck_draws (ok : Bool) (k : MacCause) (v : Byte) : (macCheck ok k v s).draws = s.draws :=
  by cases ok <;> rfl
@[simp] theorem macCheck_wctl (ok : Bool) (k : MacCause) (v : Byte) : (macCheck ok k v s).wctl = s.wctl :=
  by cases ok <;> rfl
@[simp] theorem macCheck_dctl (ok : Bool) (k : MacCause) (v : Byte) : (macCheck ok k v s).dctl = s.dctl :=
  by cases ok <;> rfl
@[simp] theorem macCheck_wret (ok : Bool) (k : MacCause) (v : Byte) : (macCheck ok k v s).wret = s.wret :=
  by cases ok <;> rfl
@[simp] theorem macCheck_dret (ok : Bool) (k : MacCause) (v : Byte) : (macCheck ok k v s).dret = s.dret :=
  by cases ok <;> rfl
@[simp] theorem macCheck_pret (ok : Bool) (k : MacCause) (v : Byte) : (macCheck ok k v s).pret = s.pret :=
  by cases ok <;> rfl
@[simp] theorem macCheck_cks (ok : Bool) (k : MacCause) (v : Byte) : (macCheck ok k v s).cks = s.cks :=
  by cases ok <;> rfl

/-! ### appendRx -/

@[simp] theorem appendRx_cfg (b : Byte) : (appendRx b s).cfg = s.cfg :=
  by unfold appendRx; split <;> (try split) <;> rfl
@[simp] theorem appendRx_arb (b : Byte) : (appendRx b s).arb = s.arb :=
  by unfold appendRx; split <;> (try split) <;> rfl
@[simp] theorem appendRx_tx (b : Byte) : (appendRx b s).tx = s.tx := by unfold appendRx; split <;> (try split) <;> rfl
@[simp] theorem appendRx_stats (b : Byte) : (appendRx b s).stats = s.stats :=
  by unfold appendRx; split <;> (try split) <;> rfl
@[simp] theorem appendRx_inq (b : Byte) : (appendRx b s).inq = s.inq :=
  by unfold appendRx; split <;> (try split) <;> rfl
@[simp] theorem appendRx_outq (b : Byte) : (appendRx b s).outq = s.outq :=
  by unfold appendRx; split <;> (try split) <;> rfl
@[simp] theorem appendRx_store (b : Byte) : (appendRx b s).store = s.store :=
  by unfold appendRx; split <;> (try split) <;> rfl
@[simp] theorem appendRx_now (b : Byte) : (appendRx b s).now = s.now :=
  by unfold appendRx; split <;> (try split) <;> rfl
@[simp] theorem appendRx_stop (b : Byte) : (appendRx b s).stop = s.stop :=
  by unfold appendRx; split <;> (try split) <;> rfl
@[simp] theorem appendRx_stopped (b : Byte) : (appendRx b s).stopped = s.stopped :=
  by unfold appendRx; split <;> (try split) <;> rfl
@[simp] theorem appendRx_parity (b : Byte) : (appendRx b s).parity = s.parity :=
  by unfold appendRx; split <;> (try split) <;> rfl
@[simp] theorem appendRx_lineOut (b : Byte) : (appendRx b s).lineOut = s.lineOut :=
  by unfold appendRx; split <;> (try split) <;> rfl
@[simp] theorem appendRx_dlog (b : Byte) : (appendRx b s).dlog = s.dlog :=
  by unfold appendRx; split <;> (try split) <;> rfl
@[simp] theorem appendRx_line (b : Byte) : (appendRx b s).line = s.line :=
  by unfold appendRx; split <;> (try split) <;> rfl
@[simp] theorem appendRx_turns (b : Byte) : (appendRx b s).turns = s.turns :=
  by unfold appendRx; split <;> (try split) <;> rfl
@[simp] theorem appendRx_draws (b : Byte) : (appendRx b s).draws = s.draws :=
  by unfold appendRx; split <;> (try split) <;> rfl
@[simp] theorem appendRx_wctl (b : Byte) : (appendRx b s).wctl = s.wctl :=
  by unfold appendRx; split <;> (try split) <;> rfl
@[simp] theorem appendRx_dctl (b : Byte) : (appendRx b s).dctl = s.dctl :=
  by unfold appendRx; split <;> (try split) <;> rfl
@[simp] theorem appendRx_wret (b : Byte) : (appendRx b s).wret = s.wret :=
  by unfold appendRx; split <;> (try split) <;> rfl
@[simp] theorem appendRx_dret (b : Byte) : (appendRx b s).dret = s.dret :=
  by unfold appendRx; split <;> (try split) <;> rfl
@[simp] theorem appendRx_pret (b : Byte) : (appendRx b s).pret = s.pret :=
  by unfold appendRx; split <;> (try split) <;> rfl
@[simp] theorem appendRx_cks (b : Byte) : (appendRx b s).cks = s.cks :=
  by unfold appendRx; split <;> (try split) <;> rfl

/-! ### applyFilter -/

@[simp] theorem applyFilter_cfg (ok : Bool) (f : FilteredField) (v : Int) : (applyFilter ok f v s).cfg = s.cfg :=
  by cases ok <;> rfl
@[simp] theorem applyFilter_frm (ok : Bool) (f : FilteredField) (v : Int) : (applyFilter ok f v s).frm = s.frm :=
  by cases ok <;> rfl
@[simp] theorem applyFilter_arb (ok : Bool) (f : FilteredField) (v : Int) : (applyFilter ok f v s).arb = s.arb :=
  by cases ok <;> rfl
@[simp] theorem applyFilter_tx (ok : Bool) (f : FilteredField) (v : Int) : (applyFilter ok f v s).tx = s.tx :=
  by cases ok <;> rfl
@[simp] theorem applyFilter_stats (ok : Bool) (f : FilteredField) (v : Int) : (applyFilter ok f v s).stats = s.stats :=
  by cases ok <;> rfl
@[simp] theorem applyFilter_inq (ok : Bool) (f : FilteredField) (v : Int) : (applyFilter ok f v s).inq = s.inq :=
  by cases ok <;> rfl
@[simp] theorem applyFilter_outq (ok : Bool) (f : FilteredField) (v : Int) : (applyFilter ok f v s).outq = s.outq :=
  by cases ok <;> rfl
@[simp] theorem applyFilter_store (ok : Bool) (f : FilteredField) (v : Int) : (applyFilter ok f v s).store = s.store :=
  by cases ok <;> rfl
@[simp] theorem applyFilter_now (ok : Bool) (f : FilteredField) (v : Int) : (applyFilter ok f v s).now = s.now :=
  by cases ok <;> rfl
@[simp] theorem applyFilter_stop (ok : Bool) (f : FilteredField) (v : Int) : (applyFilter ok f v s).stop = s.stop :=
  by cases ok <;> rfl
@[simp] theorem applyFilter_stopped (ok : Bool) (f : FilteredField) (v : Int) : (applyFilter ok f v s).stopped = s.stopped :=
  by cases ok <;> rfl
@[simp] theorem applyFilter_parity (ok : Bool) (f : FilteredField) (v : Int) : (applyFilter ok f v s).parity = s.parity :=
  by cases ok <;> rfl
@[simp] theorem applyFilter_lineOut (ok : Bool) (f : FilteredField) (v : Int) : (applyFilter ok f v s).lineOut = s.lineOut :=
  by cases ok <;> rfl
@[simp] theorem applyFilter_wlog (ok : Bool) (f : FilteredField) (v : Int) : (applyFilter ok f v s).wlog = s.wlog :=
  by cases ok <;> rfl
@[simp] theorem applyFilter_dlog (ok : Bool) (f : FilteredField) (v : Int) : (applyFilter ok f v s).dlog = if ok then s.dlog else s.dlog ++ [.decFilterReject f v] :=
  by cases ok <;> rfl
@[simp] theorem applyFilter_line (ok : Bool) (f : FilteredField) (v : Int) : (applyFilter ok f v s).line = s.line :=
  by cases ok <;> rfl
@[simp] theorem applyFilter_turns (ok : Bool) (f : FilteredField) (v : Int) : (applyFilter ok f v s).turns = s.turns :=
  by cases ok <;> rfl
@[simp] theorem applyFilter_draws (ok : Bool) (f : FilteredField) (v : Int) : (applyFilter ok f v s).draws = s.draws :=
  by cases ok <;> rfl
@[simp] theorem applyFilter_wctl (ok : Bool) (f : FilteredField) (v : Int) : (applyFilter ok f v s).wctl = s.wctl :=
  by cases ok <;> rfl
@[simp] theorem applyFilter_dctl (ok : Bool) (f : FilteredField) (v : Int) : (applyFilter ok f v s).dctl = s.dctl :=
  by cases ok <;> rfl
@[simp] theorem applyFilter_wret (ok : Bool) (f : FilteredField) (v : Int) : (applyFilter ok f v s).wret = s.wret :=
  by cases ok <;> rfl
@[simp] theorem applyFilter_dret (ok : Bool) (f : FilteredField) (v : Int) : (applyFilter ok f v s).dret = ok :=
  by cases ok <;> rfl
@[simp] theorem applyFilter_pret (ok : Bool) (f : FilteredField) (v : Int) : (applyFilter ok f v s).pret = s.pret :=
  by cases ok <;> rfl
@[simp] theorem applyFilter_cks (ok : Bool) (f : FilteredField) (v : Int) : (applyFilter ok f v s).cks = s.cks :=
  by cases ok <;> rfl

/-! ### writeFrom -/

@[simp] theorem writeFrom_cfg (t : Telegram) (i : Nat) : (writeFrom t i s).cfg = s.cfg :=
  by unfold writeFrom; split <;> rfl
@[simp] theorem writeFrom_frm (t : Telegram) (i : Nat) : (writeFrom t i s).frm = s.frm :=
  by unfold writeFrom; split <;> rfl
@[simp] theorem writeFrom_arb (t : Telegram) (i : Nat) : (writeFrom t i s).arb = s.arb :=
  by unfold writeFrom; split <;> rfl
@[simp] theorem writeFrom_stats (t : Telegram) (i : Nat) : (writeFrom t i s).stats = s.stats :=
  by unfold writeFrom; split <;> rfl
@[simp] theorem writeFrom_inq (t : Telegram) (i : Nat) : (writeFrom t i s).inq = s.inq :=
  by unfold writeFrom; split <;> rfl
@[simp] theorem writeFrom_outq (t : Telegram) (i : Nat) : (writeFrom t i s).outq = s.outq :=
  by unfold writeFrom; split <;> rfl
@[simp] theorem writeFrom_store (t : Telegram) (i : Nat) : (writeFrom t i s).store = s.store :=
  by unfold writeFrom; split <;> rfl
@[simp] theorem writeFrom_now (t : Telegram) (i : Nat) : (writeFrom t i s).now = s.now :=
  by unfold writeFrom; split <;> rfl
@[simp] theorem writeFrom_stop (t : Telegram) (i : Nat) : (writeFrom t i s).stop = s.stop :=
  by unfold writeFrom; split <;> rfl
@[simp] theorem writeFrom_stopped (t : Telegram) (i : Nat) : (writeFrom t i s).stopped = s.stopped :=
  by unfold writeFrom; split <;> rfl
@[simp] theorem writeFrom_parity (t : Telegram) (i : Nat) : (writeFrom t i s).parity = s.parity :=
  by unfold writeFrom; split <;> rfl
@[simp] theorem writeFrom_lineOut (t : Telegram) (i : Nat) : (writeFrom t i s).lineOut = s.lineOut :=
  by unfold writeFrom; split <;> rfl
@[simp] theorem writeFrom_wlog (t : Telegram) (i : Nat) : (writeFrom t i s).wlog = s.wlog :=
  by unfold writeFrom; split <;> rfl
@[simp] theorem writeFrom_dlog (t : Telegram) (i : Nat) : (writeFrom t i s).dlog = s.dlog :=
  by unfold writeFrom; split <;> rfl
@[simp] theorem writeFrom_line (t : Telegram) (i : Nat) : (writeFrom t i s).line = s.line :=
  by unfold writeFrom; split <;> rfl
@[simp] theorem writeFrom_turns (t : Telegram) (i : Nat) : (writeFrom t i s).turns = s.turns :=
  by unfold writeFrom; split <;> rfl
@[simp] theorem writeFrom_draws (t : Telegram) (i : Nat) : (writeFrom t i s).draws = s.draws :=
  by unfold writeFrom; split <;> rfl
@[simp] theorem writeFrom_dctl (t : Telegram) (i : Nat) : (writeFrom t i s).dctl = s.dctl :=
  by unfold writeFrom; split <;> rfl
@[simp] theorem writeFrom_wret (t : Telegram) (i : Nat) : (writeFrom t i s).wret = s.wret :=
  by unfold writeFrom; split <;> rfl
@[simp] theorem writeFrom_dret (t : Telegram) (i : Nat) : (writeFrom t i s).dret = s.dret :=
  by unfold writeFrom; split <;> rfl
@[simp] theorem writeFrom_pret (t : Telegram) (i : Nat) : (writeFrom t i s).pret = s.pret :=
  by unfold writeFrom; split <;> rfl
@[simp] theorem writeFrom_cks (t : Telegram) (i : Nat) : (writeFrom t i s).cks = s.cks :=
  by unfold writeFrom; split <;> rfl

/-! ### lineRead -/

@[simp] theorem lineRead_cfg : (lineRead s).2.cfg = s.cfg := by unfold lineRead; split <;> rfl
@[simp] theorem lineRead_frm : (lineRead s).2.frm = s.frm := by unfold lineRead; split <;> rfl
@[simp] theorem lineRead_arb : (lineRead s).2.arb = s.arb := by unfold lineRead; split <;> rfl
@[simp] theorem lineRead_tx : (lineRead s).2.tx = s.tx := by unfold lineRead; split <;> rfl
@[simp] theorem lineRead_stats : (lineRead s).2.stats = s.stats := by unfold lineRead; split <;> rfl
@[simp] theorem lineRead_inq : (lineRead s).2.inq = s.inq := by unfold lineRead; split <;> rfl
@[simp] theorem lineRead_outq : (lineRead s).2.outq = s.outq := by unfold lineRead; split <;> rfl
@[simp] theorem lineRead_store : (lineRead s).2.store = s.store := by unfold lineRead; split <;> rfl
@[simp] theorem lineRead_now : (lineRead s).2.now = s.now := by unfold lineRead; split <;> rfl
@[simp] theorem lineRead_stop : (lineRead s).2.stop = s.stop := by unfold lineRead; split <;> rfl
@[simp] theorem lineRead_stopped : (lineRead s).2.stopped = s.stopped := by unfold lineRead; split <;> rfl
@[simp] theorem lineRead_parity : (lineRead s).2.parity = s.parity := by unfold lineRead; split <;> rfl
@[simp] theorem lineRead_lineOut : (lineRead s).2.lineOut = s.lineOut := by unfold lineRead; split <;> rfl
@[simp] theorem lineRead_wlog : (lineRead s).2.wlog = s.wlog := by unfold lineRead; split <;> rfl
@[simp] theorem lineRead_dlog : (lineRead s).2.dlog = s.dlog := by unfold lineRead; split <;> rfl
@[simp] theorem lineRead_turns : (lineRead s).2.turns = s.turns := by unfold lineRead; split <;> rfl
@[simp] theorem lineRead_wctl : (lineRead s).2.wctl = s.wctl := by unfold lineRead; split <;> rfl
@[simp] theorem lineRead_dctl : (lineRead s).2.dctl = s.dctl := by unfold lineRead; split <;> rfl
@[simp] theorem lineRead_wret : (lineRead s).2.wret = s.wret := by unfold lineRead; split <;> rfl
@[simp] theorem lineRead_dret : (lineRead s).2.dret = s.dret := by unfold lineRead; split <;> rfl
@[simp] theorem lineRead_pret : (lineRead s).2.pret = s.pret := by unfold lineRead; split <;> rfl
@[simp] theorem lineRead_cks : (lineRead s).2.cks = s.cks := by unfold lineRead; split <;> rfl

/-! ### lineAvail -/

@[simp] theorem lineAvail_cfg : (lineAvail s).2.cfg = s.cfg := by unfold lineAvail; split <;> rfl
@[simp] theorem lineAvail_frm : (lineAvail s).2.frm = s.frm := by unfold lineAvail; split <;> rfl
@[simp] theorem lineAvail_arb : (lineAvail s).2.arb = s.arb := by unfold lineAvail; split <;> rfl
@[simp] theorem lineAvail_tx : (lineAvail s).2.tx = s.tx := by unfold lineAvail; split <;> rfl
@[simp] theorem lineAvail_stats : (lineAvail s).2.stats = s.stats := by unfold lineAvail; split <;> rfl
@[simp] theorem lineAvail_inq : (lineAvail s).2.inq = s.inq := by unfold lineAvail; split <;> rfl
@[simp] theorem lineAvail_outq : (lineAvail s).2.outq = s.outq := by unfold lineAvail; split <;> rfl
@[simp] theorem lineAvail_store : (lineAvail s).2.store = s.store := by unfold lineAvail; split <;> rfl
@[simp] theorem lineAvail_now : (lineAvail s).2.now = s.now := by unfold lineAvail; split <;> rfl
@[simp] theorem lineAvail_stop : (lineAvail s).2.stop = s.stop := by unfold lineAvail; split <;> rfl
@[simp] theorem lineAvail_stopped : (lineAvail s).2.stopped = s.stopped := by unfold lineAvail; split <;> rfl
@[simp] theorem lineAvail_parity : (lineAvail s).2.parity = s.parity := by unfold lineAvail; split <;> rfl
@[simp] theorem lineAvail_lineOut : (lineAvail s).2.lineOut = s.lineOut := by unfold lineAvail; split <;> rfl
@[simp] theorem lineAvail_wlog : (lineAvail s).2.wlog = s.wlog := by unfold lineAvail; split <;> rfl
@[simp] theorem lineAvail_dlog : (lineAvail s).2.dlog = s.dlog := by unfold lineAvail; split <;> rfl
@[simp] theorem lineAvail_turns : (lineAvail s).2.turns = s.turns := by unfold lineAvail; split <;> rfl
@[simp] theorem lineAvail_wctl : (lineAvail s).2.wctl = s.wctl := by unfold lineAvail; split <;> rfl
@[simp] theorem lineAvail_dctl : (lineAvail s).2.dctl = s.dctl := by unfold lineAvail; split <;> rfl
@[simp] theorem lineAvail_wret : (lineAvail s).2.wret = s.wret := by unfold lineAvail; split <;> rfl
@[simp] theorem lineAvail_dret : (lineAvail s).2.dret = s.dret := by unfold lineAvail; split <;> rfl
@[simp] theorem lineAvail_pret : (lineAvail s).2.pret = s.pret := by unfold lineAvail; split <;> rfl
@[simp] theorem lineAvail_cks : (lineAvail s).2.cks = s.cks := by unfold lineAvail; split <;> rfl

end Sys2Proof.Machine
end

