-- ==== Sys2Proof/Laws/Ops.lean ====
section
/-! SUPPORT. For each shared operation, one lemma that says everything it can do. -/

namespace Sys2Proof.Machine

/-! ### Outcomes -/

theorem need_eq_next {k : Nat} {t : Telegram} {r : Res} {s' : State} :
    need k t r = .next s' ↔ k ≤ t.length ∧ r = .next s' := by
  unfold need; split <;> simp_all

theorem need_of_le {k : Nat} {t : Telegram} (r : Res) (h : k ≤ t.length) : need k t r = r := if_pos h

theorem need_of_lt {k : Nat} {t : Telegram} (r : Res) (h : t.length < k) : need k t r = .fault .telegramIndex :=
  if_neg (Nat.not_le.mpr h)

theorem runFetched_eq_next {f : Except Reject Instr × State} {s' : State} :
    runFetched f = .next s' ↔ ∃ i, f.1 = .ok i ∧ exec i f.2 = .next s' := by
  unfold runFetched; split <;> simp_all

theorem workerTurn_eq_next {s s' : State} :
    workerTurn s = .next s' ↔
      (s.stopped = true ∧ s' = s) ∨
        (s.stopped = false ∧ ∃ i, (workerFetch s).1 = .ok i ∧ exec i (workerFetch s).2 = .next s') := by
  unfold workerTurn
  cases h : s.stopped
  · simp [runFetched_eq_next]
  · simp [eq_comm]

theorem step_eq_next {s s' : State} :
    step s = .next s' ↔ configOk s.cfg = true ∧ runTurn (takeTurn s).1 (takeTurn s).2 = .next s' := by
  unfold step stepTurn; split <;> simp_all

theorem takeTurn_cases (s : State) :
    (∃ t ts, s.turns = t :: ts ∧ takeTurn s = (t, { s with turns := ts })) ∨
      (s.turns = [] ∧ takeTurn s = (Config.freeTurn s.draws, { s with draws := s.draws + 1 })) := by
  unfold takeTurn
  split <;> rename_i h
  · exact .inl ⟨_, _, h, rfl⟩
  · exact .inr ⟨h, rfl⟩

/-! ### Calls, counters, events -/

theorem invokeIfOwn_of_own {s : State} (h : ownBus s = true) : invokeIfOwn s = callW [.op .txInvoke] s := if_pos h

theorem invokeIfOwn_of_other {s : State} (h : ownBus s = false) : invokeIfOwn s = s := by
  unfold invokeIfOwn; simp [h]

theorem macCheck_true (k : MacCause) (v : Byte) (s : State) : macCheck true k v s = s := rfl

theorem macCheck_false (k : MacCause) (v : Byte) (s : State) :
    macCheck false k v s = count .macErr (raiseW (.macErr k v s.arb.bs) s) := rfl

/-! ### Buffers -/

theorem appendRx_cases (b : Byte) (s : State) :
    (s.frm.rxlen < maxTelegram ∧ appendRx b s =
      { s with frm := { s.frm with rxbuf := s.frm.rxbuf.set s.frm.rxlen b, rxlen := s.frm.rxlen + 1 } }) ∨
    (maxTelegram ≤ s.frm.rxlen ∧ s.frm.rxovf = true ∧ appendRx b s = s) ∨
    (maxTelegram ≤ s.frm.rxlen ∧ s.frm.rxovf = false ∧
      appendRx b s = raiseW .framerOverflow { s with frm := { s.frm with rxovf := true } }) := by
  unfold appendRx
  split
  · exact .inl ⟨‹_›, rfl⟩
  · have h := Nat.not_lt.mp ‹_›
    split
    · exact .inr (.inl ⟨h, ‹_›, rfl⟩)
    · exact .inr (.inr ⟨h, by simp_all, rfl⟩)

/-! ### Queues -/

theorem packetOk_iff {p : List Byte} : packetOk p = true ↔ 1 ≤ p.length ∧ p.length ≤ 32 := by
  simp [packetOk, queueMsgMax]

theorem isDataLen_iff {t : Telegram} : isDataLen t = true ↔ 6 ≤ t.length ∧ t.length ≤ 32 := by
  simp [isDataLen, minDataLen, maxTelegram]

theorem qPush_cases (q : List (List Byte)) (p : List Byte) :
    (q.length < queueDepth ∧ qPush q p = (true, q ++ [p])) ∨ (queueDepth ≤ q.length ∧ qPush q p = (false, q)) := by
  unfold qPush
  split
  · exact .inl ⟨‹_›, rfl⟩
  · exact .inr ⟨Nat.not_lt.mp ‹_›, rfl⟩

/-- The result of `QPush` says whether there was room. -/
theorem qPush_fst (q : List (List Byte)) (p : List Byte) : (qPush q p).1 = decide (q.length < queueDepth) := by
  obtain ⟨h, he⟩ | ⟨h, he⟩ := qPush_cases q p <;> simp [he, h]

/-- The queue after `QPush`. -/
theorem qPush_snd (q : List (List Byte)) (p : List Byte) :
    (qPush q p).2 = if q.length < queueDepth then q ++ [p] else q := by
  unfold qPush; split <;> rfl

theorem qTryRecv_cases (q : List (List Byte)) :
    (q = [] ∧ qTryRecv q = (none, [])) ∨ ∃ p r, q = p :: r ∧ qTryRecv q = (some p, r) := by
  cases q with
  | nil => exact .inl ⟨rfl, rfl⟩
  | cons p r => exact .inr ⟨p, r, rfl, rfl⟩

/-! ### The line -/

/-- A `LineRead` consumes the items up to the first that answers it, or all of them. -/
theorem readItems_cases (l : List LineItem) :
    readItems l = none ∨ ∃ o r k, readItems l = some (o, r) ∧ r = l.drop k := by
  induction l with
  | nil => exact .inl rfl
  | cons x l ih =>
    cases x with
    | rx b => exact .inr ⟨.byte b, l, 1, rfl, rfl⟩
    | tmo => exact .inr ⟨.timeout, l, 1, rfl, rfl⟩
    | avail =>
      obtain h | ⟨o, r, k, h, hr⟩ := ih
      · exact .inl (by simpa [readItems] using h)
      · exact .inr ⟨o, r, k + 1, by simpa [readItems] using h, by simpa using hr⟩

theorem lineRead_rx {s : State} {b : Byte} {l : List LineItem} (h : s.line = .rx b :: l) :
    lineRead s = (.byte b, { s with line := l }) := by
  simp [lineRead, h, readItems]

theorem lineRead_tmo {s : State} {l : List LineItem} (h : s.line = .tmo :: l) :
    lineRead s = (.timeout, { s with line := l }) := by
  simp [lineRead, h, readItems]

theorem lineRead_nil {s : State} (h : s.line = []) :
    lineRead s = (Config.freeRead s.draws, { s with draws := s.draws + 1 }) := by
  cases s; simp_all [lineRead, readItems]

theorem lineAvail_rx {s : State} {b : Byte} {l : List LineItem} (h : s.line = .rx b :: l) :
    lineAvail s = (true, s) := by
  simp [lineAvail, h]

theorem lineAvail_tmo {s : State} {l : List LineItem} (h : s.line = .tmo :: l) :
    lineAvail s = (false, { s with line := l }) := by
  simp [lineAvail, h]

theorem lineAvail_avail {s : State} {l : List LineItem} (h : s.line = .avail :: l) :
    lineAvail s = (true, { s with line := l }) := by
  simp [lineAvail, h]

theorem lineAvail_nil {s : State} (h : s.line = []) :
    lineAvail s = (Config.freeAvail s.draws, { s with draws := s.draws + 1 }) := by
  simp [lineAvail, h]

/-! ### The transmit loop -/

theorem writeFrom_cases (t : Telegram) (i : Nat) (s : State) :
    (∃ b, t[i]? = some b ∧ writeFrom t i s = callW [.op (.txwByte b), .write t] (setTxp (.echo i) s)) ∨
      (t.length ≤ i ∧ writeFrom t i s = callW [.op .txwBreak, .write t] (setTxp .act s)) := by
  unfold writeFrom
  split <;> rename_i h
  · exact .inl ⟨_, h, rfl⟩
  · exact .inr ⟨by simpa using h, rfl⟩

/-! ### Filters and the result store -/

theorem applyFilter_true (f : FilteredField) (v : Int) (s : State) :
    applyFilter true f v s = { s with dret := true } := rfl

theorem applyFilter_false (f : FilteredField) (v : Int) (s : State) :
    applyFilter false f v s = raiseD (.decFilterReject f v) { s with dret := false } := rfl

/-- A counter that was accepted once is accepted again: its difference to itself is 0 (R253). -/
theorem optimeOk_self {c : Cfg} {last : Option Nat} {v : Nat} (h : optimeOk c last v = true) :
    optimeOk c (some v) v = true := by
  simp only [optimeOk, Bool.and_eq_true, absDiff] at h ⊢
  exact ⟨h.1, by simp⟩

theorem ifAccepted_eq {α : Type} (s : State) (v : α) : ifAccepted s v = if s.dret = true then some v else none := rfl

@[simp] theorem updated_none {α : Type} (o : Option α) : updated none o = o := rfl

@[simp] theorem updated_some {α : Type} (v : α) (o : Option α) : updated (some v) o = some v := rfl

theorem updated_isSome {α : Type} (n o : Option α) (h : o.isSome = true) : (updated n o).isSome = true := by
  cases n <;> simp_all

end Sys2Proof.Machine
end

