-- ==== Sys2Proof/Laws/Memory.lean ====
section
/-! SUPPORT. Every operation over the buffers and the queues keeps their canonical form `Memory.wf`. -/

namespace Sys2Proof.Machine

theorem memory_wf_iff (s : State) :
    Memory.wf s = true ↔
      s.frm.rxbuf.length = 32 ∧ s.tx.txbuf.length = 32 ∧ s.frm.rxlen ≤ 32 ∧ s.tx.txlen ≤ 32 ∧ s.inq.length ≤ 32 ∧
        s.outq.length ≤ 32 ∧ (∀ p ∈ s.inq, packetOk p = true) ∧ (∀ p ∈ s.outq, packetOk p = true) := by
  simp [Memory.wf, maxTelegram, queueDepth, and_assoc]

theorem reset_memory_wf : Memory.wf State.reset = true := by decide

/-- `Memory.wf` looks at the framer, the transmit record and the queues only. -/
theorem memory_wf_of_same {s t : State} (hf : t.frm = s.frm) (hx : t.tx = s.tx) (hi : t.inq = s.inq)
    (ho : t.outq = s.outq) : Memory.wf t = Memory.wf s := by
  simp [Memory.wf, hf, hx, hi, ho]

theorem appendRx_memory_wf (b : Byte) (s : State) (h : Memory.wf s = true) : Memory.wf (appendRx b s) = true := by
  rw [memory_wf_iff] at h ⊢
  obtain ⟨hl, he⟩ | ⟨-, -, he⟩ | ⟨-, -, he⟩ := appendRx_cases b s
  · have hl : s.frm.rxlen < 32 := hl
    rw [he]
    simp only [List.length_set]
    exact ⟨h.1, h.2.1, by omega, h.2.2.2⟩
  · rw [he]; exact h
  · rw [he]; exact h

theorem setTxByte_memory_wf (i : Nat) (b : Byte) (s : State) (h : Memory.wf s = true) :
    Memory.wf (setTxByte i b s) = true := by
  rw [memory_wf_iff] at h ⊢
  simpa using h

theorem dropTx_memory_wf (s : State) (h : Memory.wf s = true) : Memory.wf (dropTx s) = true := by
  rw [memory_wf_iff] at h ⊢
  simpa using h

theorem loadTx_memory_wf (p : List Byte) (s : State) (hp : packetOk p = true) (h : Memory.wf s = true) :
    Memory.wf (loadTx p s) = true := by
  rw [memory_wf_iff] at h ⊢
  have := (packetOk_iff.mp hp).2
  simp only [loadTx_frm, loadTx_tx, loadTx_inq, loadTx_outq, List.length_append, List.length_drop]
  exact ⟨h.1, by omega, h.2.2.1, this, h.2.2.2.2⟩

theorem qPush_length_le (q : List (List Byte)) (p : List Byte) (h : q.length ≤ 32) : (qPush q p).2.length ≤ 32 := by
  obtain ⟨hl, he⟩ | ⟨-, he⟩ := qPush_cases q p
  · have hl : q.length < 32 := hl
    rw [he]; simp; omega
  · rw [he]; exact h

theorem qPush_all {q : List (List Byte)} {p : List Byte} {f : List Byte → Prop} (hq : ∀ x ∈ q, f x) (hp : f p) :
    ∀ x ∈ (qPush q p).2, f x := by
  obtain ⟨-, he⟩ | ⟨-, he⟩ := qPush_cases q p
  · rw [he]; simpa [or_imp, forall_and] using ⟨hq, hp⟩
  · rw [he]; exact hq

theorem pushIn_memory_wf (p : List Byte) (s : State) (hp : packetOk p = true) (h : Memory.wf s = true) :
    Memory.wf (pushIn p s) = true := by
  rw [memory_wf_iff] at h ⊢
  exact ⟨h.1, h.2.1, h.2.2.1, h.2.2.2.1, qPush_length_le _ _ h.2.2.2.2.1, h.2.2.2.2.2.1,
    qPush_all h.2.2.2.2.2.2.1 hp, h.2.2.2.2.2.2.2⟩

theorem pushOut_memory_wf (p : List Byte) (s : State) (hp : packetOk p = true) (h : Memory.wf s = true) :
    Memory.wf (pushOut p s) = true := by
  rw [memory_wf_iff] at h ⊢
  exact ⟨h.1, h.2.1, h.2.2.1, h.2.2.2.1, h.2.2.2.2.1, qPush_length_le _ _ h.2.2.2.2.2.1, h.2.2.2.2.2.2.1,
    qPush_all h.2.2.2.2.2.2.2 hp⟩

theorem popInq_memory_wf (s : State) (h : Memory.wf s = true) :
    Memory.wf { s with inq := (qTryRecv s.inq).2 } = true := by
  rw [memory_wf_iff] at h ⊢
  obtain ⟨hq, he⟩ | ⟨p, r, hq, he⟩ := qTryRecv_cases s.inq
  · rw [hq] at he; simpa [he, hq] using h
  · rw [hq] at h
    simp only [List.length_cons, List.mem_cons, forall_eq_or_imp] at h
    rw [he]
    exact ⟨h.1, h.2.1, h.2.2.1, h.2.2.2.1, by simp; omega, h.2.2.2.2.2.1, h.2.2.2.2.2.2.1.2, h.2.2.2.2.2.2.2⟩

theorem popOutq_memory_wf (s : State) (h : Memory.wf s = true) :
    Memory.wf { s with outq := (qTryRecv s.outq).2 } = true := by
  rw [memory_wf_iff] at h ⊢
  obtain ⟨hq, he⟩ | ⟨p, r, hq, he⟩ := qTryRecv_cases s.outq
  · rw [hq] at he; simpa [he, hq] using h
  · rw [hq] at h
    simp only [List.length_cons, List.mem_cons, forall_eq_or_imp] at h
    rw [he]
    exact ⟨h.1, h.2.1, h.2.2.1, h.2.2.2.1, h.2.2.2.2.1, by simp; omega, h.2.2.2.2.2.2.1, h.2.2.2.2.2.2.2.2⟩

end Sys2Proof.Machine
end

