-- ==== Sys2Proof/Laws/PerInstr.lean ====
section
/-! SUPPORT. Statements for all instructions, one lemma for each constructor. -/

namespace Sys2Proof.Laws

open Sys2Proof.Machine

/-- A well-formed instruction's encoding has at most the bytes of the longest telegram (30_encoding.md R98). -/
def EncodeFits.Statement (i : Instr) : Prop := i.wf = true → (encode i).2.length ≤ maxTelegram

theorem range_fits {k : Nat} {t : Telegram} (h : (decide (k ≤ t.length) && decide (t.length ≤ maxTelegram)) = true) :
    t.length ≤ maxTelegram := of_decide_eq_true (Bool.and_eq_true_iff.mp h).2

theorem data_fits {t : Telegram} (h : isDataLen t = true) : t.length ≤ maxTelegram := range_fits h

theorem data_and_fits {t : Telegram} {b : Bool} (h : (isDataLen t && b) = true) : t.length ≤ maxTelegram :=
  range_fits (Bool.and_eq_true_iff.mp h).1

theorem byte_fits : 1 ≤ maxTelegram := Nat.le_add_left 1 31

theorem EncodeFits.rxEsc : EncodeFits.Statement .rxEsc :=
  fun _ => byte_fits

theorem EncodeFits.rxData (b : Byte) : EncodeFits.Statement (.rxData b) :=
  fun _ => byte_fits

theorem EncodeFits.rxLitff : EncodeFits.Statement .rxLitff :=
  fun _ => byte_fits

theorem EncodeFits.rxMark : EncodeFits.Statement .rxMark :=
  fun _ => byte_fits

theorem EncodeFits.rxBadesc (y : Byte) : EncodeFits.Statement (.rxBadesc y) :=
  fun _ => byte_fits

theorem EncodeFits.rxBreak : EncodeFits.Statement .rxBreak :=
  fun _ => byte_fits

theorem EncodeFits.rxBreak0 : EncodeFits.Statement .rxBreak0 :=
  fun _ => byte_fits

theorem EncodeFits.rxBadmark (x : Byte) : EncodeFits.Statement (.rxBadmark x) :=
  fun _ => byte_fits

theorem EncodeFits.rxTmo : EncodeFits.Statement .rxTmo :=
  fun _ => Nat.zero_le _

theorem EncodeFits.txwByte (b : Byte) : EncodeFits.Statement (.txwByte b) :=
  fun _ => byte_fits

theorem EncodeFits.txwBreak : EncodeFits.Statement .txwBreak :=
  fun _ => byte_fits

theorem EncodeFits.tgMac (v : Byte) : EncodeFits.Statement (.tgMac v) :=
  fun _ => byte_fits

theorem EncodeFits.tgLong (t : Telegram) : EncodeFits.Statement (.tgLong t) :=
  fun h => range_fits h

theorem EncodeFits.tgShort (t : Telegram) : EncodeFits.Statement (.tgShort t) := by
  intro h; simp_all [Instr.wf, encode, maxTelegram, minDataLen]; omega

theorem EncodeFits.macAck : EncodeFits.Statement .macAck :=
  fun _ => byte_fits

theorem EncodeFits.macRel (v : Byte) : EncodeFits.Statement (.macRel v) :=
  fun _ => byte_fits

theorem EncodeFits.macAssign (id : DevId) : EncodeFits.Statement (.macAssign id) :=
  fun _ => byte_fits

theorem EncodeFits.macRsvd (v : Byte) : EncodeFits.Statement (.macRsvd v) :=
  fun _ => byte_fits

theorem EncodeFits.dataEvent (t : Telegram) : EncodeFits.Statement (.dataEvent t) :=
  fun h => data_fits h

theorem EncodeFits.dataAddr (t : Telegram) : EncodeFits.Statement (.dataAddr t) :=
  fun h => data_fits h

theorem EncodeFits.dataPreempt (t : Telegram) : EncodeFits.Statement (.dataPreempt t) :=
  fun h => data_fits h

theorem EncodeFits.dataUnassigned (t : Telegram) : EncodeFits.Statement (.dataUnassigned t) :=
  fun h => data_fits h

theorem EncodeFits.dataWrongsender (t : Telegram) : EncodeFits.Statement (.dataWrongsender t) :=
  fun h => data_fits h

theorem EncodeFits.dataClassify (t : Telegram) : EncodeFits.Statement (.dataClassify t) :=
  fun h => data_fits h

theorem EncodeFits.dataReadreq (t : Telegram) : EncodeFits.Statement (.dataReadreq t) :=
  fun h => data_and_fits h

theorem EncodeFits.dataWrite (t : Telegram) : EncodeFits.Statement (.dataWrite t) :=
  fun h => data_and_fits (Bool.and_eq_true_iff.mp h).1

theorem EncodeFits.dataBcast (t : Telegram) : EncodeFits.Statement (.dataBcast t) :=
  fun h => data_and_fits h

theorem EncodeFits.dataReadresp (t : Telegram) (m : Bool) : EncodeFits.Statement (.dataReadresp t m) :=
  fun h => data_fits h

theorem EncodeFits.dataInwrote (t : Telegram) : EncodeFits.Statement (.dataInwrote t) :=
  fun h => data_fits h

theorem EncodeFits.dataAccept (t : Telegram) : EncodeFits.Statement (.dataAccept t) :=
  fun _ => Nat.zero_le _

theorem EncodeFits.txInvoke : EncodeFits.Statement .txInvoke :=
  fun _ => Nat.zero_le _

theorem EncodeFits.txPull : EncodeFits.Statement .txPull :=
  fun _ => Nat.zero_le _

theorem EncodeFits.txStamp : EncodeFits.Statement .txStamp :=
  fun _ => Nat.zero_le _

theorem EncodeFits.txBudget : EncodeFits.Statement .txBudget :=
  fun _ => Nat.zero_le _

theorem EncodeFits.txAttempt : EncodeFits.Statement .txAttempt :=
  fun _ => Nat.zero_le _

theorem EncodeFits.txWrite (t : Telegram) : EncodeFits.Statement (.txWrite t) :=
  fun _ => Nat.zero_le _

theorem EncodeFits.txResult (ok : Bool) : EncodeFits.Statement (.txResult ok) :=
  fun _ => Nat.zero_le _

theorem EncodeFits.txState (hdr : Header) : EncodeFits.Statement (.txState hdr) :=
  fun _ => Nat.zero_le _

theorem EncodeFits.txRelease (part : ReleasePart) : EncodeFits.Statement (.txRelease part) :=
  fun _ => Nat.zero_le _

theorem EncodeFits.cksum (bytes : List Byte) : EncodeFits.Statement (.cksum bytes) :=
  fun _ => Nat.zero_le _

theorem EncodeFits.decRecv : EncodeFits.Statement .decRecv :=
  fun _ => Nat.zero_le _

theorem EncodeFits.decDispatch (t : Telegram) : EncodeFits.Statement (.decDispatch t) :=
  fun _ => Nat.zero_le _

theorem EncodeFits.decGuard (t : Telegram) (minLen : Nat) : EncodeFits.Statement (.decGuard t minLen) := by
  intro h; have := (isDataLen_iff.mp h).2; simp only [encode]; split <;> simp [maxTelegram, this]

theorem EncodeFits.decUbaFast (t : Telegram) : EncodeFits.Statement (.decUbaFast t) :=
  fun h => range_fits h

theorem EncodeFits.decUbaSlow (t : Telegram) : EncodeFits.Statement (.decUbaSlow t) :=
  fun h => range_fits h

theorem EncodeFits.decUbaWw (t : Telegram) : EncodeFits.Statement (.decUbaWw t) :=
  fun h => range_fits h

theorem EncodeFits.decRcTime (t : Telegram) : EncodeFits.Statement (.decRcTime t) :=
  fun h => range_fits h

theorem EncodeFits.decRcMode (t : Telegram) : EncodeFits.Statement (.decRcMode t) :=
  fun h => range_fits h

theorem EncodeFits.decUbaErr (t : Telegram) : EncodeFits.Statement (.decUbaErr t) :=
  fun h => range_fits h

theorem EncodeFits.decPlus (t : Telegram) : EncodeFits.Statement (.decPlus t) :=
  fun h => data_and_fits h

theorem EncodeFits.decUndecoded (t : Telegram) (cause : UndecodedCause) : EncodeFits.Statement (.decUndecoded t cause) := by
  intro h; have := (isDataLen_iff.mp h).2; cases cause <;> simp [encode, maxTelegram, this]

theorem EncodeFits.fltOptime (v : Nat) : EncodeFits.Statement (.fltOptime v) :=
  fun _ => Nat.zero_le _

theorem EncodeFits.fltStarts (v : Nat) : EncodeFits.Statement (.fltStarts v) :=
  fun _ => Nat.zero_le _

theorem EncodeFits.fltExhaust (v : Int) : EncodeFits.Statement (.fltExhaust v) :=
  fun _ => Nat.zero_le _

theorem EncodeFits.fltPass : EncodeFits.Statement .fltPass :=
  fun _ => Nat.zero_le _

theorem EncodeFits.sysStop : EncodeFits.Statement .sysStop :=
  fun _ => Nat.zero_le _

end Sys2Proof.Laws
end

