-- ==== Sys2Proof/Laws/Step.lean ====
section
/-! SUPPORT. What one step is in a turn of the worker and in a turn of the decoder agent, by the place where each stands. -/

namespace Sys2Proof.Machine

/-! ### Fetching -/

theorem workerFetch_cons {s : State} {c : Ctl} {k : List Ctl} (h : s.wctl = c :: k) :
    workerFetch s =
      (decode s.cfg (ctlPoint s c).1 (ctlPoint s c).2.1, { s with wctl := (ctlPoint s c).2.2 ++ k }) := by
  unfold workerFetch
  split
  · rename_i c' k' h'
    cases h.symm.trans h'
    rfl
  · rename_i h'
    cases h.symm.trans h'

theorem workerFetch_stop {s : State} (h : s.wctl = []) (hs : s.stop = true) : workerFetch s = (.ok .sysStop, s) := by
  unfold workerFetch
  split
  · rename_i h'
    cases h.symm.trans h'
  · exact if_pos hs

theorem workerFetch_read {s : State} (h : s.wctl = []) (hs : s.stop = false) :
    workerFetch s =
      (decode s.cfg (.raw s.frm.fs (s.frm.rxlen == 0)) (outcomeBytes (lineRead s).1), (lineRead s).2) := by
  unfold workerFetch
  split
  · rename_i h'
    cases h.symm.trans h'
  · exact if_neg (by simp [hs])

theorem decoderFetch_cons {s : State} {c : DCtl} {k : List DCtl} (h : s.dctl = c :: k) :
    decoderFetch s = (decode s.cfg (dctlPoint c).1 (dctlPoint c).2, { s with dctl := k }) := by
  unfold decoderFetch
  split
  · rename_i h'
    cases h.symm.trans h'
    rfl
  · rename_i h'
    cases h.symm.trans h'

theorem decoderFetch_nil {s : State} (h : s.dctl = []) : decoderFetch s = (.ok .decRecv, s) := by
  unfold decoderFetch
  split
  · rename_i h'
    cases h.symm.trans h'
  · rfl

/-- The place a pending call selects at depends on `TxAttempt`, the arbiter and the returned boolean only. -/
theorem ctlPoint_congr {s u : State} (c : Ctl) (hx : u.tx = s.tx) (ha : u.arb = s.arb) (hr : u.wret = s.wret) :
    ctlPoint u c = ctlPoint s c := by
  cases c <;> simp [ctlPoint, txTelegram, hx, ha, hr]

/-- What a wait answers, and what it leaves, does not depend on whose turn comes next. -/
theorem lineRead_withTurns (s : State) (ts : List Turn) :
    lineRead { s with turns := ts } = ((lineRead s).1, { (lineRead s).2 with turns := ts }) := by
  unfold lineRead
  cases readItems s.line <;> rfl

/-! ### Steps -/

theorem step_worker {s : State} {ts : List Turn} (hc : configOk s.cfg = true) (ht : s.turns = .worker :: ts) :
    step s = workerTurn { s with turns := ts } := by
  simp only [step, stepTurn, hc, takeTurn, ht, runTurn, ite_true]

theorem step_decoder {s : State} {ts : List Turn} (hc : configOk s.cfg = true) (ht : s.turns = .decoder :: ts) :
    step s = decoderTurn { s with turns := ts } := by
  simp only [step, stepTurn, hc, takeTurn, ht, runTurn, ite_true]

theorem workerTurn_running {s : State} (h : s.stopped = false) : workerTurn s = runFetched (workerFetch s) :=
  if_neg (by simp [h])

theorem workerTurn_stopped {s : State} (h : s.stopped = true) : workerTurn s = .next s := if_pos h

theorem runFetched_ok (i : Instr) (s : State) : runFetched (.ok i, s) = exec i s := rfl

/-- `n + 1` steps are one step and `n` more. -/
theorem run_succ {s u : State} (n : Nat) (h : step s = .next u) :
    Sys2Proof.core.run (n + 1) s = Sys2Proof.core.run n u := by
  have h : Sys2Proof.core.step s = .next u := h
  simp only [Host.Core.run, h]

theorem run_zero (s : State) : Sys2Proof.core.run 0 s = .next s := rfl

theorem run_succ_eq_next {s u : State} {n : Nat} (h : Sys2Proof.core.run (n + 1) s = .next u) :
    ∃ v, step s = .next v ∧ Sys2Proof.core.run n v = .next u := by
  simp only [Host.Core.run] at h
  split at h
  · exact ⟨_, ‹_›, h⟩
  · cases h
  · cases h

/-- `n + m` steps are `n` steps and `m` more. -/
theorem run_add {s u : State} (n m : Nat) (h : Sys2Proof.core.run n s = .next u) :
    Sys2Proof.core.run (n + m) s = Sys2Proof.core.run m u := by
  induction n generalizing s with
  | zero =>
    rw [run_zero] at h
    cases h
    rw [Nat.zero_add]
  | succ n ih =>
    obtain ⟨v, hs, hv⟩ := run_succ_eq_next h
    rw [Nat.succ_add, run_succ _ hs]
    exact ih hv

end Sys2Proof.Machine
end

