-- ==== Sys2Proof/Tests/Slice0.lean ====
section
/-! SUPPORT. Tests: ill-formed operations refused, words written out from the spec's encodings, one step of each operation with
the values of 95_test_vectors.md, and for each statement with hypotheses a state that meets them. -/

namespace Sys2Proof.Tests

open Sys2Proof.Machine

/-! ## Helpers -/

/-- The outcome is a next state with this property. -/
def after (r : Res) (p : State → Bool) : Bool :=
  match r with
  | .next s => p s
  | .fault _ => false
  | .refused _ => false

/-- The reset state with a prior `(BS, POLLED)` and `RDEXP = [08,0B,18,00]` (95_test_vectors.md 2.2, 2.3). -/
def prior (bs : BusState) (polled : Option DevId) : State :=
  { State.reset with arb := { bs := bs, polled := polled, rdexp := ⟨0x08, 0x0B, 0x18, 0x00⟩ } }

/-- The reset state with a framer state and `RXLEN`. -/
def framed (fs : FramerState) (n : Nat) : State :=
  { State.reset with frm := { State.reset.frm with fs := fs, rxlen := n } }

/-- The engine polled at 1000 with the packet of X1 to X13 in `OUTQ` (95_test_vectors.md 2.4). -/
def polled (q : List (List Byte)) : State :=
  { prior .assigned (some 0x0D) with outq := q, now := 1000, tx := { State.reset.tx with acqTime := 1000 } }

/-- A pending telegram `[0D,10,3D,05,28,00]` with this retry counter (X15 to X20). -/
def pending (retries : Nat) : State :=
  { polled [] with tx := { State.reset.tx with
      txpend := true, txbuf := [0x0D, 0x10, 0x3D, 0x05, 0x28, 0x00] ++ List.replicate 26 0, txlen := 6,
      retries := retries, acqTime := 1000 } }

/-- A telegram of `n` bytes from the master to every device. -/
def fromMaster (n : Nat) : Telegram := [0x08, 0x00, 0x18] ++ List.replicate (n - 3) 0

/-- E13. -/
def fastPacket : Telegram :=
  [0x08, 0x00, 0x18, 0, 0, 0, 0, 0, 0, 0, 0x37, 0x01, 0xF4, 0, 0x64, 0, 0, 0, 0, 0, 0, 0, 0, 0, 0xFA, 0x5A]

/-- E16, with index 4 as given and the operating time of `m` (three bytes). -/
def slowPacket (flags m : Byte) : Telegram :=
  [0x08, 0x00, 0x19, 0, flags, 0, 0, 0, 0, 0, 0, 0, 0, 0x12, 0x34, m, 0, 0, 0x5A]

/-- E17. -/
def wwPacket : Telegram := [0x08, 0x00, 0x34, 0, 0x3C, 0x02, 0x1C, 0, 0, 0, 0, 0, 0, 0, 0, 0, 0, 0x04, 0x5A]

/-- E18. -/
def timePacket : Telegram := [0x10, 0x00, 0x06, 0, 0x1A, 0x0B, 0x0E, 0x0A, 0x1E, 0x00, 0x01, 0x00, 0x5A]

/-- E19. -/
def modePacket : Telegram :=
  [0x10, 0x00, 0x3D, 0, 0, 0x22, 0x2A, 0x20, 0, 0, 0, 0x02] ++ List.replicate 14 0 ++ [0x11, 0x5A]

/-- E14. -/
def errPacket : Telegram := [0x08, 0x00, 0xBF, 0, 0x5F, 0x01, 0x02, 0x03, 0, 0, 0, 0, 0x5A]

/-! ## Ill-formed operations are refused by `Instr.wf` -/

theorem test_wf_framer :
    ((Instr.rxData 0xFF).wf, (Instr.rxBadesc 0x00).wf, (Instr.rxBadesc 0xFF).wf, (Instr.rxBadmark 0x00).wf,
      (Instr.rxData 0xFE).wf, (Instr.rxBadesc 0x41).wf, (Instr.rxBadmark 0xFF).wf) =
    (false, false, false, false, true, true, true) := rfl

theorem test_wf_dispatch :
    ((Instr.tgLong [8]).wf, (Instr.tgLong (fromMaster 33)).wf, (Instr.tgShort [8]).wf, (Instr.tgShort (fromMaster 6)).wf,
      (Instr.tgLong (fromMaster 32)).wf, (Instr.tgShort (fromMaster 5)).wf) =
    (false, false, false, false, true, true) := rfl

theorem test_wf_mac :
    ((Instr.macRel 0x07).wf, (Instr.macRel 0x80).wf, (Instr.macRsvd 0x01).wf, (Instr.macRsvd 0x08).wf,
      (Instr.macRel 0x08).wf, (Instr.macRel 0x7F).wf, (Instr.macRsvd 0x00).wf, (Instr.macRsvd 0x07).wf) =
    (false, false, false, false, true, true, true, true) := rfl

theorem test_wf_data_length :
    ([Instr.dataEvent, .dataAddr, .dataPreempt, .dataUnassigned, .dataWrongsender, .dataClassify, .dataInwrote, .dataAccept,
        (.dataReadresp · true), .decDispatch, (.decGuard · 26), (.decUndecoded · .unknownKey)].map
      (fun f => ((f (fromMaster 5)).wf, (f (fromMaster 33)).wf, (f (fromMaster 6)).wf))) =
    List.replicate 12 (false, false, true) := rfl

theorem test_wf_data_destination :
    ((Instr.dataReadreq [8, 0x7F, 0, 0, 0, 0]).wf, (Instr.dataWrite [8, 0x80, 0, 0, 0, 0]).wf,
      (Instr.dataWrite [8, 0x07, 0, 0, 0, 0]).wf, (Instr.dataBcast [8, 0x08, 0, 0, 0, 0]).wf,
      (Instr.dataReadreq [8, 0x88, 0, 0, 0, 0]).wf, (Instr.dataWrite [8, 0x08, 0, 0, 0, 0]).wf,
      (Instr.dataBcast [8, 0x00, 0, 0, 0, 0]).wf) =
    (false, false, false, false, true, true, true) := rfl

theorem test_wf_transmit :
    ((Instr.txWrite []).wf, (Instr.txWrite (fromMaster 33)).wf, (Instr.cksum []).wf, (Instr.cksum (fromMaster 32)).wf,
      (Instr.txWrite (fromMaster 32)).wf, (Instr.cksum (fromMaster 31)).wf) =
    (false, false, false, false, true, true) := rfl

theorem test_wf_decoder :
    ((Instr.decUbaFast (fromMaster 25)).wf, (Instr.decUbaSlow (fromMaster 18)).wf, (Instr.decUbaWw (fromMaster 18)).wf,
      (Instr.decRcTime (fromMaster 12)).wf, (Instr.decRcMode (fromMaster 27)).wf, (Instr.decUbaErr (fromMaster 12)).wf,
      (Instr.decPlus (fromMaster 6)).wf, (Instr.decUbaFast fastPacket).wf, (Instr.decRcMode modePacket).wf) =
    (false, false, false, false, false, false, false, true, true) := rfl

theorem test_wf_filters :
    ((Instr.fltOptime 16777216).wf, (Instr.fltStarts 16777216).wf, (Instr.fltExhaust 32768).wf,
      (Instr.fltExhaust (-32769)).wf, (Instr.fltOptime 16777215).wf, (Instr.fltExhaust (-32768)).wf) =
    (false, false, false, false, true, true) := rfl

/-! ## Every operation's bytes, written out from 30_encoding.md, decode to it -/

/-- R91..R96, R130. -/
theorem test_decode_framer :
    decode Cfg.default (.raw .idle true) [0b11111111] = .ok .rxEsc ∧
    decode Cfg.default (.raw .idle true) [0b10001011] = .ok (.rxData 0x8B) ∧
    decode Cfg.default (.raw .esc1 true) [0b11111111] = .ok .rxLitff ∧
    decode Cfg.default (.raw .esc1 true) [0b00000000] = .ok .rxMark ∧
    decode Cfg.default (.raw .esc1 true) [0b01000001] = .ok (.rxBadesc 0x41) ∧
    decode Cfg.default (.raw .esc2 false) [0b00000000] = .ok .rxBreak ∧
    decode Cfg.default (.raw .esc2 true) [0b00000000] = .ok .rxBreak0 ∧
    decode Cfg.default (.raw .esc2 false) [0b00110111] = .ok (.rxBadmark 0x37) ∧
    decode Cfg.default (.raw .esc2 false) [] = .ok .rxTmo :=
  ⟨rfl, rfl, rfl, rfl, rfl, rfl, rfl, rfl, rfl⟩

/-- R97. -/
theorem test_decode_wire :
    decode Cfg.default (.wire .normal) [0b00001101] = .ok (.txwByte 0x0D) ∧
    decode Cfg.default (.wire .mark) [0b00000000] = .ok .txwBreak ∧
    decode Cfg.default (.wire .mark) [0b00000001] = .error .markedByte :=
  ⟨rfl, rfl, rfl⟩

/-- R98, R160, R165: by length. -/
theorem test_decode_telegram :
    decode Cfg.default .telegram [0b10001011] = .ok (.tgMac 0x8B) ∧
    decode Cfg.default .telegram [0x08, 0x00] = .ok (.tgLong [0x08, 0x00]) ∧
    decode Cfg.default .long (fromMaster 5) = .ok (.tgShort (fromMaster 5)) ∧
    decode Cfg.default .long (fromMaster 6) = .ok (.dataEvent (fromMaster 6)) ∧
    decode Cfg.default .telegram (fromMaster 33) = .error .badLength :=
  ⟨rfl, rfl, rfl, rfl, rfl⟩

/-- R101..R105, the class boundaries M25 to M32. -/
theorem test_decode_mac :
    decode Cfg.default .mac [0b00000000] = .ok (.macRsvd 0x00) ∧
    decode Cfg.default .mac [0b00000001] = .ok .macAck ∧
    decode Cfg.default .mac [0b00000010] = .ok (.macRsvd 0x02) ∧
    decode Cfg.default .mac [0b00000111] = .ok (.macRsvd 0x07) ∧
    decode Cfg.default .mac [0b00001000] = .ok (.macRel 0x08) ∧
    decode Cfg.default .mac [0b01111111] = .ok (.macRel 0x7F) ∧
    decode Cfg.default .mac [0b10000000] = .ok (.macAssign 0x00) ∧
    decode Cfg.default .mac [0b11111111] = .ok (.macAssign 0x7F) :=
  ⟨rfl, rfl, rfl, rfl, rfl, rfl, rfl, rfl⟩

/-- R167, R168, R170: addresses first, then the preemption. -/
theorem test_decode_data_event :
    decode Cfg.default (.event .assigned (some 0x0B) false) [0x05, 0x10, 0x18, 0, 0, 0x5A] =
      .ok (.dataAddr [0x05, 0x10, 0x18, 0, 0, 0x5A]) ∧
    decode Cfg.default (.event .assigned (some 0x0B) false) [0x0B, 0b10000111, 0x18, 0, 0, 0x5A] =
      .ok (.dataAddr [0x0B, 0x87, 0x18, 0, 0, 0x5A]) ∧
    decode Cfg.default (.event .wrote (some 0x0B) false) [0x08, 0x00, 0x18, 0, 0, 0x5A] =
      .ok (.dataPreempt [0x08, 0x00, 0x18, 0, 0, 0x5A]) ∧
    decode Cfg.default (.event .assigned (some 0x0B) false) [0x0B, 0x88, 0x18, 0, 1, 0x5A] =
      .ok (.dataClassify [0x0B, 0x88, 0x18, 0, 1, 0x5A]) :=
  ⟨rfl, rfl, rfl, rfl⟩

/-- R167, the case on `BS`. -/
theorem test_decode_data_case :
    decode Cfg.default (.case .released none false) [0x10, 0x08, 0x3D, 0, 1, 0x5A] =
      .ok (.dataUnassigned [0x10, 0x08, 0x3D, 0, 1, 0x5A]) ∧
    decode Cfg.default (.case .assigned (some 0x0B) false) [0x10, 0x0B, 0x3D, 0, 1, 0x5A] =
      .ok (.dataWrongsender [0x10, 0x0B, 0x3D, 0, 1, 0x5A]) ∧
    decode Cfg.default (.case .read (some 0x0B) true) [0x08, 0x0B, 0x18, 0, 0x2A, 0x5A] =
      .ok (.dataReadresp [0x08, 0x0B, 0x18, 0, 0x2A, 0x5A] true) ∧
    decode Cfg.default (.case .wrote (some 0x0B) false) [0x10, 0x0B, 0x3D, 0, 1, 0x5A] =
      .ok (.dataInwrote [0x10, 0x0B, 0x3D, 0, 1, 0x5A]) :=
  ⟨rfl, rfl, rfl, rfl⟩

/-- R173: the class of an accepted telegram, by bit 7 and the range of its destination byte. -/
theorem test_decode_data_class :
    decode Cfg.default .dest [0x0B, 0b10001000, 0x18, 0, 1, 0x5A] = .ok (.dataReadreq [0x0B, 0x88, 0x18, 0, 1, 0x5A]) ∧
    decode Cfg.default .dest [0x0B, 0b00001000, 0x18, 0, 1, 0x5A] = .ok (.dataWrite [0x0B, 0x08, 0x18, 0, 1, 0x5A]) ∧
    decode Cfg.default .dest [0x0B, 0b01111111, 0x18, 0, 1, 0x5A] = .ok (.dataWrite [0x0B, 0x7F, 0x18, 0, 1, 0x5A]) ∧
    decode Cfg.default .dest [0x0B, 0b00000000, 0x18, 0, 1, 0x5A] = .ok (.dataBcast [0x0B, 0x00, 0x18, 0, 1, 0x5A]) :=
  ⟨rfl, rfl, rfl, rfl⟩

/-- R107, R108: the six layouts by their keys, E4, E8 and E3. -/
theorem test_decode_keys :
    decode Cfg.default .layout fastPacket = .ok (.decUbaFast fastPacket) ∧
    decode Cfg.default .layout (slowPacket 0 0) = .ok (.decUbaSlow (slowPacket 0 0)) ∧
    decode Cfg.default .layout wwPacket = .ok (.decUbaWw wwPacket) ∧
    decode Cfg.default .layout timePacket = .ok (.decRcTime timePacket) ∧
    decode Cfg.default .layout modePacket = .ok (.decRcMode modePacket) ∧
    decode Cfg.default .layout errPacket = .ok (.decUbaErr errPacket) ∧
    decode Cfg.default .key fastPacket = .ok (.decGuard fastPacket 26) ∧
    decode Cfg.default .key [0x10, 0x00, 0xFF, 0, 1, 0x5A] = .ok (.decPlus [0x10, 0x00, 0xFF, 0, 1, 0x5A]) ∧
    decode Cfg.default .key [0x10, 0x08, 0x99, 0, 0, 0x5A] =
      .ok (.decUndecoded [0x10, 0x08, 0x99, 0, 0, 0x5A] .unknownKey) ∧
    decode Cfg.default .key [0x0B, 0x88, 0x18, 0, 1, 0x5A] =
      .ok (.decUndecoded [0x0B, 0x88, 0x18, 0, 1, 0x5A] .readRequest) :=
  ⟨rfl, rfl, rfl, rfl, rfl, rfl, rfl, rfl, rfl, rfl⟩

/-- X14: a row added to the table by data alone (R109, R242). -/
theorem test_decode_added_row :
    decode { extraRows := [⟨0x0D, .anyWrite, 0x06, none, .rcTime⟩] } .key ([0x0D] ++ timePacket.drop 1) =
      .ok (.decGuard ([0x0D] ++ timePacket.drop 1) 13) := rfl

/-- The rows of the table without a byte pattern: their caller selects them. -/
theorem test_decode_calls :
    [Instr.dataAccept (fromMaster 6), .txInvoke, .txPull, .txStamp, .txBudget, .txAttempt, .txWrite [0x0D], .txResult true,
        .txState ⟨0x0D, 0x10, 0x3D, 0x05⟩, .txRelease .call, .cksum [0x0D], .decRecv, .decDispatch (fromMaster 6),
        .fltOptime 0, .fltStarts 0, .fltExhaust 0, .fltPass, .sysStop].all
      (fun i => decide ((decode Cfg.default (encode i).1 (encode i).2).toOption = some i)) = true := rfl

/-- The words of spec/opcode_table.json: bits 7..0 of an 8-bit row; a key with `T[0]` in bits 23..16. -/
theorem test_decode_table_words :
    decodeTableWord 8 0x01 = some .macAck ∧ decodeTableWord 8 0x8B = some (.macAssign 0x0B) ∧
    decodeTableWord 24 0x080018 = some (.decUbaFast (keyTelegram 0x080018)) ∧
    decodeTableWord 24 0x1000FF = some (.decPlus (keyTelegram 0x1000FF)) ∧
    decodeTableWord 16 0 = none :=
  ⟨rfl, rfl, rfl, rfl, rfl⟩

/-- A placed word is what the next step runs. -/
theorem test_placed_words :
    step (State.reset.withFetchWord 8 0x8B) =
      exec (.macAssign 0x0B) State.reset ∧
    step (State.reset.withFetchWord 24 0x0800BF) = exec (.decUbaErr (keyTelegram 0x0800BF)) State.reset :=
  ⟨rfl, rfl⟩

/-! ## One step of each operation (95_test_vectors.md Part 2) -/

/-! ### The framer -/

/-- F10: the 32nd byte is stored. -/
theorem test_rx_data_stores_the_last :
    after (exec (.rxData 0x22) (framed .idle 31)) (fun u =>
      decide (u.frm.rxlen = 32 ∧ byteAt u.frm.rxbuf 31 = 0x22 ∧ u.frm.fs = .idle ∧ u.wlog = [])) = true := rfl

/-- F11, F12: the 33rd is discarded, with one warning. -/
theorem test_rx_data_overflows :
    after (exec (.rxData 0x22) (framed .idle 32)) (fun u =>
      decide (u.frm.rxlen = 32 ∧ u.frm.rxovf = true ∧ u.wlog = [.framerOverflow])) = true := rfl

/-- F18. -/
theorem test_rx_esc : after (exec .rxEsc (framed .idle 1)) (fun u => decide (u.frm.fs = .esc1 ∧ u.frm.rxlen = 1)) = true := rfl

/-- F3. -/
theorem test_rx_litff :
    after (exec .rxLitff (framed .esc1 2)) (fun u =>
      decide (u.frm.fs = .idle ∧ u.frm.rxlen = 3 ∧ byteAt u.frm.rxbuf 2 = 0xFF)) = true := rfl

/-- F19. -/
theorem test_rx_mark : after (exec .rxMark (framed .esc1 1)) (fun u => decide (u.frm.fs = .esc2 ∧ u.frm.rxlen = 1)) = true := rfl

/-- F6: dropped. -/
theorem test_rx_badesc :
    after (exec (.rxBadesc 0x41) (framed .esc1 1)) (fun u =>
      decide (u.frm.fs = .idle ∧ u.frm.rxlen = 1 ∧ u.wlog = [])) = true := rfl

/-- F1, with T=1000 in force. -/
theorem test_rx_break :
    after (exec .rxBreak { framed .esc2 1 with
        now := 1000, frm := { fs := .esc2, rxbuf := 0x8B :: List.replicate 31 0, rxlen := 1, rxovf := true, heartbeat := none } })
      (fun u => decide (u.wctl = [.telegram [0x8B]] ∧ u.frm.heartbeat = some 1000 ∧ u.frm.rxlen = 0 ∧
        u.frm.rxovf = false ∧ u.frm.fs = .idle)) = true := rfl

/-- F2: no telegram, the heartbeat not refreshed. -/
theorem test_rx_break0 :
    after (exec .rxBreak0 { framed .esc2 0 with now := 1000 }) (fun u =>
      decide (u.wctl = [] ∧ u.frm.heartbeat = none ∧ u.frm.fs = .idle)) = true := rfl

/-- F8. -/
theorem test_rx_badmark :
    after (exec (.rxBadmark 0xFF) (framed .esc2 1)) (fun u => decide (u.frm.fs = .idle ∧ u.frm.rxlen = 1)) = true := rfl

/-- F16: a time-out changes nothing. -/
theorem test_rx_tmo : exec .rxTmo (framed .esc2 1) = .next (framed .esc2 1) := rfl

/-- P2: a byte under `Normal`, then `>M 00 >N`. -/
theorem test_txw :
    after (exec (.txwByte 0x0D) State.reset) (fun u => decide (u.lineOut = [.write 0x0D .normal])) = true ∧
    after (exec .txwBreak State.reset) (fun u => decide (u.parity = .normal ∧
      u.lineOut = [.setParity .mark, .write 0x00 .mark, .setParity .normal])) = true := ⟨rfl, rfl⟩

/-! ### The arbiter -/

/-- R160: no `rx_*` counter moves for a control byte. -/
theorem test_tg_mac :
    after (exec (.tgMac 0x8B) State.reset) (fun u => decide (u.wctl = [.mac 0x8B] ∧ u.stats = State.reset.stats)) = true := rfl

/-- D22. -/
theorem test_tg_long_short :
    after (exec (.tgLong [0x08, 0x00, 0xFF, 0x12]) State.reset) (fun u => decide (u.stats.rxTotal = 1)) = true ∧
    after (exec (.tgShort [0x08, 0x00, 0xFF, 0x12]) State.reset) (fun u =>
      decide (u.stats.rxShort = 1 ∧ u.wlog = [.rxShort 4] ∧ u.inq = [])) = true := ⟨rfl, rfl⟩

/-- M3, M4. -/
theorem test_mac_ack :
    after (exec .macAck (prior .wrote (some 0x0B))) (fun u =>
      decide (u.arb.bs = .assigned ∧ u.arb.polled = some 0x0B ∧ u.stats.macErr = 0 ∧ u.wctl = [])) = true ∧
    after (exec .macAck (prior .released none)) (fun u =>
      decide (u.arb.bs = .assigned ∧ u.arb.polled = none ∧ u.stats.macErr = 1)) = true := ⟨rfl, rfl⟩

/-- M22: the invocation still runs. -/
theorem test_mac_ack_ours :
    after (exec .macAck (prior .read (some 0x0D))) (fun u =>
      decide (u.wctl = [.op .txInvoke] ∧ u.wlog = [.macErr .ackWithoutWrite 0x01 .read])) = true := rfl

/-- M10, M7. -/
theorem test_mac_rel :
    after (exec (.macRel 0x10) (prior .assigned (some 0x0B))) (fun u =>
      decide (u.arb.bs = .released ∧ u.arb.polled = none ∧ u.stats.macErr = 0)) = true ∧
    after (exec (.macRel 0x0B) (prior .released none)) (fun u =>
      decide (u.arb.bs = .released ∧ u.wlog = [.macErr .releaseWithoutAssign 0x0B .released])) = true := ⟨rfl, rfl⟩

/-- M11, M12. -/
theorem test_mac_assign :
    after (exec (.macAssign 0x0C) (prior .assigned (some 0x0B))) (fun u =>
      decide (u.arb.bs = .assigned ∧ u.arb.polled = some 0x0C ∧ u.stats.macErr = 0 ∧ u.wctl = [])) = true ∧
    after (exec (.macAssign 0x0C) (prior .wrote (some 0x0B))) (fun u =>
      decide (u.arb.polled = some 0x0C ∧ u.wlog = [.macErr .assignInBadState 0x8C .wrote])) = true := ⟨rfl, rfl⟩

/-- M23. -/
theorem test_mac_assign_ours :
    after (exec (.macAssign 0x0D) { prior .wrote (some 0x0B) with now := 2000 }) (fun u =>
      decide (u.tx.acqTime = 2000 ∧ u.stats.macErr = 1 ∧ u.wctl = [.op .txInvoke])) = true := rfl

/-- M18. -/
theorem test_mac_rsvd :
    after (exec (.macRsvd 0x04) (prior .read (some 0x0B))) (fun u => decide (u.arb = (prior .read (some 0x0B)).arb ∧
      u.stats.macErr = 1 ∧ u.wlog = [.macErr .reservedValue 0x04 .read])) = true := rfl

/-- D9, D10: the header match is taken before the preemption. -/
theorem test_data_event :
    after (exec (.dataEvent [0x08, 0x0B, 0x18, 0x00, 0x2A, 0x5A]) (prior .read (some 0x0B))) (fun u =>
      decide (u.wctl = [.event [0x08, 0x0B, 0x18, 0x00, 0x2A, 0x5A] true])) = true ∧
    after (exec (.dataEvent [0x08, 0x0B, 0x18, 0x01, 0x2A, 0x5A]) (prior .read (some 0x0B))) (fun u =>
      decide (u.wctl = [.event [0x08, 0x0B, 0x18, 0x01, 0x2A, 0x5A] false])) = true := ⟨rfl, rfl⟩

/-- D25. -/
theorem test_data_addr :
    after (exec (.dataAddr [0x05, 0x0B, 0x18, 0x00, 0x2A, 0x5A]) (prior .read (some 0x0B))) (fun u =>
      decide (u.arb.bs = .read ∧ u.stats.rxFormat = 1 ∧
        u.wlog = [.rxFormat .addressRange ⟨0x05, 0x0B, 0x18, 0x00⟩])) = true := rfl

/-- D13. -/
theorem test_data_preempt :
    after (exec (.dataPreempt (fromMaster 6)) (prior .wrote (some 0x0B))) (fun u =>
      decide (u.arb.bs = .released ∧ u.arb.polled = none ∧ u.stats.macErr = 0 ∧
        u.wctl = [.case (fromMaster 6) false])) = true := rfl

/-- D1, D6. -/
theorem test_data_senders :
    after (exec (.dataUnassigned [0x10, 0x08, 0x3D, 0, 1, 0x5A]) (prior .released none)) (fun u =>
      decide (u.stats.rxSender = 1 ∧ u.wlog = [.rxUnassigned 0x10] ∧ u.inq = [])) = true ∧
    after (exec (.dataWrongsender [0x10, 0x0B, 0x3D, 0, 1, 0x5A]) (prior .assigned (some 0x0B))) (fun u =>
      decide (u.stats.rxSender = 1 ∧ u.wlog = [.rxWrongSender 0x10 (some 0x0B)] ∧ u.inq = [])) = true := ⟨rfl, rfl⟩

/-- R173. -/
theorem test_data_classify :
    after (exec (.dataClassify (fromMaster 6)) State.reset) (fun u =>
      decide (u.wctl = [.dest (fromMaster 6), .op (.dataAccept (fromMaster 6))])) = true := rfl

/-- D3, D15g. -/
theorem test_data_readreq :
    after (exec (.dataReadreq [0x08, 0x90, 0x3D, 0, 1, 0x5A]) (prior .released none)) (fun u =>
      decide (u.arb.bs = .read ∧ u.arb.rdexp = ⟨0x10, 0x08, 0x3D, 0x00⟩)) = true ∧
    after (exec (.dataReadreq [0x0B, 0xFF, 0x18, 0, 1, 0x5A]) (prior .assigned (some 0x0B))) (fun u =>
      decide (u.arb.rdexp = ⟨0x7F, 0x0B, 0x18, 0x00⟩)) = true := ⟨rfl, rfl⟩

/-- D5, D7. -/
theorem test_data_write_bcast :
    after (exec (.dataWrite [0x0B, 0x10, 0x3D, 5, 0x28, 0x5A]) (prior .assigned (some 0x0B))) (fun u =>
      decide (u.arb.bs = .wrote ∧ u.arb.polled = some 0x0B)) = true ∧
    after (exec (.dataBcast [0x0B, 0x00, 0x3D, 0, 1, 0x5A]) (prior .assigned (some 0x0B))) (fun u =>
      decide (u.arb.bs = .assigned)) = true := ⟨rfl, rfl⟩

/-- D16, D11. -/
theorem test_data_readresp :
    after (exec (.dataReadresp (fromMaster 6) true) (prior .read (some 0x0D))) (fun u =>
      decide (u.arb.bs = .assigned ∧ u.wctl = [.op (.dataAccept (fromMaster 6)), .op .txInvoke])) = true ∧
    after (exec (.dataReadresp [0x10, 0x0B, 0x18, 0, 0x2A, 0x5A] false) (prior .read (some 0x0B))) (fun u =>
      decide (u.arb.bs = .assigned ∧ u.stats.rxFormat = 1 ∧ u.wlog =
        [.rxFormat (.readHeaderMismatch ⟨0x08, 0x0B, 0x18, 0x00⟩) ⟨0x10, 0x0B, 0x18, 0x00⟩])) = true := ⟨rfl, rfl⟩

/-- D12. -/
theorem test_data_inwrote :
    after (exec (.dataInwrote [0x10, 0x0B, 0x3D, 0, 1, 0x5A]) (prior .wrote (some 0x0B))) (fun u =>
      decide (u.arb.bs = .wrote ∧ u.stats.rxSender = 1 ∧ u.wlog = [.rxUnexpected 0x10])) = true := rfl

/-- D24, D26: the whole telegram, and a full queue. -/
theorem test_data_accept :
    after (exec (.dataAccept (fromMaster 32)) State.reset) (fun u =>
      decide (u.inq = [fromMaster 32] ∧ u.stats.rxSuccess = 1)) = true ∧
    after (exec (.dataAccept (fromMaster 6)) { State.reset with inq := List.replicate 32 [1] }) (fun u =>
      decide (u.inq = List.replicate 32 [1] ∧ u.stats.rxSuccess = 1 ∧ u.wlog = [])) = true := ⟨rfl, rfl⟩

/-! ### The Transmit Engine -/

theorem test_tx_invoke :
    after (exec .txInvoke State.reset) (fun u => decide (u.wctl = [.op .txPull, .pulled])) = true := rfl

/-- X1, X9. -/
theorem test_tx_pull :
    after (exec .txPull (polled [[0x7E, 0x10, 0x3D, 0x05, 0x28, 0x99]])) (fun u =>
      decide (u.outq = [] ∧ u.tx.txpend = true ∧ u.tx.txlen = 6 ∧
        u.tx.txbuf.take 6 = [0x7E, 0x10, 0x3D, 0x05, 0x28, 0x99])) = true ∧
    after (exec .txPull (polled [[0x00, 0x10, 0x3D]])) (fun u =>
      decide (u.outq = [] ∧ u.tx.txpend = false ∧ u.wlog = [.txBadPacket 3])) = true := ⟨rfl, rfl⟩

/-- X2, K1: the checksum is of the stamped bytes. -/
theorem test_tx_stamp :
    exec .txStamp { pending 0 with tx := { (pending 0).tx with txbuf := [0x7E, 0x10, 0x3D, 0x05, 0x28, 0x99] } } =
      .next { pending 0 with
        cks := Config.checksum [0x0D, 0x10, 0x3D, 0x05, 0x28],
        tx := { (pending 0).tx with
          txbuf := [0x0D, 0x10, 0x3D, 0x05, 0x28, Config.checksum [0x0D, 0x10, 0x3D, 0x05, 0x28]] } } := rfl

/-- X15, X16. -/
theorem test_tx_budget :
    after (exec .txBudget { pending 2 with now := 1200 }) (fun u => decide (u.wret = false ∧ u.wlog = [])) = true ∧
    after (exec .txBudget { pending 2 with now := 1201 }) (fun u =>
      decide (u.wret = true ∧ u.wlog = [.txBudget 201] ∧ u.tx.txpend = true ∧ u.tx.retries = 2)) = true := ⟨rfl, rfl⟩

/-- R204. -/
theorem test_tx_attempt :
    after (exec .txAttempt (pending 0)) (fun u =>
      decide (u.stats.txTotal = 1 ∧ u.wctl = [.write [0x0D, 0x10, 0x3D, 0x05, 0x28, 0x00]])) = true := rfl

/-- X3, X6: a wrong echo, and the second read for 0xFF. -/
theorem test_tx_write :
    after (exec (.txWrite [0x0D, 0x10, 0x3D, 0x05, 0x28, 0x00])
        { pending 0 with line := [.rx 0x3C], tx := { (pending 0).tx with txp := .echo 2 } }) (fun u =>
      decide (u.wret = false ∧ u.wlog = [.txEchoMismatch 2 0x3D 0x3C] ∧ u.wctl = [])) = true ∧
    after (exec (.txWrite [0x0D, 0x10, 0xFF, 0x00, 0x01, 0x00])
        { pending 0 with line := [.rx 0xFF, .rx 0xFF], tx := { (pending 0).tx with txp := .echo 2 } }) (fun u =>
      decide (u.tx.txp = .echo2 2 ∧ u.line = [.rx 0xFF] ∧
        u.wctl = [.write [0x0D, 0x10, 0xFF, 0x00, 0x01, 0x00]])) = true := ⟨rfl, rfl⟩

/-- X5, X22: no line activity after the BREAK; a stop inside a wait. -/
theorem test_tx_write_ends :
    after (exec (.txWrite [0x0D]) { pending 0 with line := [.tmo], tx := { (pending 0).tx with txp := .act } }) (fun u =>
      decide (u.wret = false ∧ u.wlog = [.txNoBreakAck])) = true ∧
    after (exec (.txWrite [0x0D, 0x10]) { pending 0 with
        line := [.rx 0x7E], stop := true, tx := { (pending 0).tx with txp := .echo 1 }, wctl := [.attempted ⟨0, 0, 0, 0⟩] })
      (fun u => decide (u.stopped = true ∧ u.tx.txp = .idle ∧ u.wctl = [] ∧ u.wlog = [] ∧ u.tx.txpend = true ∧
        u.tx.retries = 0 ∧ u.arb.bs = .assigned)) = true := ⟨rfl, rfl⟩

/-- X18, X19. -/
theorem test_tx_result :
    after (exec (.txResult false) (pending 4)) (fun u =>
      decide (u.tx.retries = 5 ∧ u.tx.txpend = true ∧ u.stats.txFail = 0)) = true ∧
    after (exec (.txResult false) (pending 5)) (fun u =>
      decide (u.tx.retries = 0 ∧ u.tx.txpend = false ∧ u.stats.txFail = 1 ∧
        u.wlog = [.txDropped ⟨0x0D, 0x10, 0x3D, 0x05⟩])) = true := ⟨rfl, rfl⟩

/-- X11, X13. -/
theorem test_tx_state :
    after (exec (.txState ⟨0x0D, 0x88, 0x18, 0x00⟩) (pending 0)) (fun u =>
      decide (u.arb.bs = .read ∧ u.arb.rdexp = ⟨0x08, 0x0D, 0x18, 0x00⟩)) = true ∧
    after (exec (.txState ⟨0x0D, 0x03, 0x3D, 0x05⟩) (pending 0)) (fun u => decide (u.arb.bs = .assigned)) = true := ⟨rfl, rfl⟩

/-- X12: the result of the release reply is ignored. -/
theorem test_tx_release :
    after (exec (.txRelease .call) (polled [])) (fun u =>
      decide (u.wctl = [.write [0x0D], .op (.txRelease .finish)] ∧ u.stats = State.reset.stats)) = true ∧
    after (exec (.txRelease .finish) { polled [] with wret := false }) (fun u =>
      decide (u.arb.bs = .released ∧ u.arb.polled = none ∧ u.tx.txp = .idle)) = true := ⟨rfl, rfl⟩

theorem test_cksum :
    exec (.cksum [0x0D, 0x10]) State.reset = .next { State.reset with cks := Config.checksum [0x0D, 0x10] } := rfl

/-! ### The decoder -/

/-- E1, E2. -/
theorem test_dec_recv :
    exec .decRecv State.reset = .next State.reset ∧
    exec .decRecv { State.reset with inq := [[0x08, 0x00, 0x18]] } = .next State.reset := ⟨rfl, rfl⟩

theorem test_dec_dispatch :
    after (exec (.decDispatch errPacket) State.reset) (fun u => decide (u.dctl = [.key errPacket])) = true := rfl

/-- E7, E15b. -/
theorem test_dec_guard :
    after (exec (.decGuard (fromMaster 25) 26) State.reset) (fun u =>
      decide (u.dctl = [.op (.decUndecoded (fromMaster 25) .tooShortForLayout)])) = true ∧
    after (exec (.decGuard fastPacket 26) State.reset) (fun u => decide (u.dctl = [.layout fastPacket])) = true := ⟨rfl, rfl⟩

/-- E13, E13b with `FF 9C` at 11. -/
theorem test_dec_uba_fast :
    after (exec (.decUbaFast fastPacket) State.reset) (fun u =>
      decide (u.store.fast = ⟨some 55, some 500, some 100, some 0, some 250⟩)) = true ∧
    after (exec (.decUbaFast ((fastPacket.set 11 0xFF).set 12 0x9C)) State.reset) (fun u =>
      decide (u.store.fast.boilerTemp = some (-100))) = true := ⟨by decide +kernel, by decide +kernel⟩

/-- E16, and E16e's rejected exhaust temperature beside the other fields. -/
theorem test_dec_uba_slow :
    after (exec (.decUbaSlow (slowPacket 0xA4 0x01)) State.reset) (fun u => decide (u.store.slow =
      ⟨some 4660, some 65536, some true, some false, some true, some true, none⟩ ∧ u.dlog = [])) = true ∧
    after (exec (.decUbaSlow (((slowPacket 0x5B 0x01).set 5 0x09).set 6 0xC5))
        { State.reset with cfg := { slowOffExhaust := some 5 } }) (fun u => decide (u.store.slow =
      ⟨some 4660, some 65536, some false, some true, some false, some false, none⟩ ∧
        u.dlog = [.decFilterReject .slowExhaustTemp 2501])) = true := ⟨rfl, rfl⟩

/-- E17, E17b. -/
theorem test_dec_uba_ww :
    after (exec (.decUbaWw wwPacket) State.reset) (fun u =>
      decide (u.store.ww = ⟨some 540, some 60, some true⟩)) = true ∧
    after (exec (.decUbaWw (wwPacket.set 17 0xFB)) State.reset) (fun u =>
      decide (u.store.ww.circPump = some false)) = true := ⟨by decide +kernel, by decide +kernel⟩

/-- E18; E18b and E18c. -/
theorem test_dec_rc_time :
    after (exec (.decRcTime timePacket) State.reset) (fun u => decide (u.store.time =
      ⟨some 2026, some 11, some 14, some 10, some 30, some 0, some 1, some false⟩)) = true ∧
    after (exec (.decRcTime ((timePacket.set 4 0xFF).set 11 0x80)) State.reset) (fun u =>
      decide (u.store.time.year = some 2255 ∧ u.store.time.dst = some true)) = true := ⟨rfl, rfl⟩

/-- E19. -/
theorem test_dec_rc_mode :
    after (exec (.decRcMode modePacket) State.reset) (fun u =>
      decide (u.store.mode = ⟨some 34, some 42, some 32, some 2, some 17⟩)) = true := rfl

/-- E14, E15. -/
theorem test_dec_uba_err :
    after (exec (.decUbaErr errPacket) State.reset) (fun u =>
      decide (u.store.err = ⟨some 95, some 1, some 2, some 3⟩)) = true ∧
    after (exec (.decUbaErr (errPacket.set 4 0x4B)) State.reset) (fun u =>
      decide (u.store.err.model = some 75)) = true := ⟨rfl, rfl⟩

/-- E9, E10. -/
theorem test_dec_plus :
    after (exec (.decPlus [0x10, 0x00, 0xFF, 0, 1, 0x5A]) State.reset) (fun u =>
      decide (u.dctl = [.op (.decUndecoded [0x10, 0x00, 0xFF, 0, 1, 0x5A] (.plus (some 1)))])) = true ∧
    after (exec (.decPlus [0x10, 0x00, 0xFF, 0, 1, 0x5A]) { State.reset with cfg := { plusSubtypeOff := 5 } }) (fun u =>
      decide (u.dctl = [.op (.decUndecoded [0x10, 0x00, 0xFF, 0, 1, 0x5A] (.plus none))])) = true := ⟨rfl, rfl⟩

/-- E3. -/
theorem test_dec_undecoded :
    after (exec (.decUndecoded [0x10, 0x08, 0x99, 0, 0, 0x5A] .unknownKey) State.reset) (fun u =>
      decide (u.dlog = [.decUndecoded .unknownKey [0x10, 0x08, 0x99, 0, 0, 0x5A]] ∧ u.store = Store.empty)) = true := rfl

/-! ### The filters -/

/-- The reset state with a stored operating time. -/
def withOptime (v : Nat) : State :=
  { State.reset with store := { Store.empty with slow := { Store.empty.slow with optimeMin := some v } } }

/-- L5, L8. -/
theorem test_flt_optime :
    after (exec (.fltOptime 66976) (withOptime 65536)) (fun u => u.dret) = true ∧
    after (exec (.fltOptime 64095) (withOptime 65536)) (fun u =>
      decide (u.dret = false ∧ u.dlog = [.decFilterReject .slowOptimeMin 64095])) = true := ⟨rfl, rfl⟩

/-- L13, L16. -/
theorem test_flt_starts :
    after (exec (.fltStarts 0) State.reset) (fun u =>
      decide (u.dret = false ∧ u.dlog = [.decFilterReject .slowStarts 0])) = true ∧
    after (exec (.fltStarts 1000000) State.reset) (fun u => u.dret) = true := ⟨rfl, rfl⟩

/-- L18, L19. -/
theorem test_flt_exhaust :
    after (exec (.fltExhaust (-200)) State.reset) (fun u => u.dret) = true ∧
    after (exec (.fltExhaust 2501) State.reset) (fun u =>
      decide (u.dret = false ∧ u.dlog = [.decFilterReject .slowExhaustTemp 2501])) = true := ⟨rfl, rfl⟩

/-- L20. -/
theorem test_flt_pass : after (exec .fltPass State.reset) (fun u => u.dret) = true := rfl

/-! ### Stop, queues, arithmetic -/

/-- Z1: the next step of the worker stops, and the partial telegram stays where it is, unread. -/
theorem test_sys_stop :
    after (exec .sysStop { framed .idle 2 with stop := true, line := [.rx 1] }) (fun u =>
      decide (u.stopped = true ∧ u.wctl = [] ∧ u.frm.rxlen = 2 ∧ u.line = [.rx 1])) = true := rfl

/-- Z6, Z7, Z8. -/
theorem test_queues :
    (qPush (List.replicate 32 [1]) [2], qTryRecv [], qTryRecv (qPush (qPush (qPush [] [1]).2 [2]).2 [3]).2) =
    ((false, List.replicate 32 [1]), (none, []), (some [1], [[2], [3]])) := rfl

/-- R66: a producer sees whether its packet was stored, up to the 32nd and at the 33rd. -/
theorem test_producer_result :
    after (step { State.reset with turns := [.produce [2]], outq := List.replicate 31 [1] }) (fun u =>
      decide (u.pret = true ∧ u.outq.length = 32)) = true ∧
    after (step { State.reset with turns := [.produce [2]], outq := List.replicate 32 [1], pret := true }) (fun u =>
      decide (u.pret = false ∧ u.outq = List.replicate 32 [1])) = true := ⟨rfl, rfl⟩

/-- A5 to A11, A15, A16. -/
theorem test_arithmetic :
    (be16 [0x01, 0xF4] 0, sext16 (be16 [0xFF, 0x9C] 0), sext16 (be16 [0x80, 0x00] 0), be24 [0x00, 0x12, 0x34] 0,
      be24 [0xFF, 0xFF, 0xFF] 0, elapsedModular 32 0x64 0xFFFFFF38, incSaturating 8 255) =
    (500, -100, -32768, 4660, 16777215, 300, 255) := by decide +kernel

/-! ## Witnesses: for each statement with hypotheses, states and operands that meet them -/

/-- The reset state with these turns. -/
def turned (ts : List Turn) : State := { State.reset with turns := ts }

/-- The worker's turn at this stack of pending calls. -/
def at_ (k : List Ctl) : State := { turned [.worker] with wctl := k }

/-- The checks behind `Inv`, for a state whose heartbeat is `none`. -/
def invChecks (s : State) : Bool :=
  configOk s.cfg && Memory.wf s && s.inq.all isDataLen && (s.arb.bs != .released || s.arb.polled == none) &&
    (!s.tx.txpend || minDataLen ≤ s.tx.txlen) && s.tx.retries ≤ maxRetries && (s.tx.txpend || s.tx.retries == 0) &&
    s.parity == .normal && s.tx.acqTime ≤ s.now && s.frm.heartbeat == none &&
    (!s.frm.rxovf || s.frm.rxlen == maxTelegram) &&
    (s.wctl == [] || (s.frm.fs == .idle && s.frm.rxlen == 0 && s.frm.rxovf == false)) && wctlOk s && dctlOk s &&
    (!s.stopped || s.wctl == []) &&
    s.stats.rxTotal ==
      s.stats.rxSuccess + s.stats.rxShort + s.stats.rxSender + s.stats.rxFormat + rxPending s.wctl &&
    s.stats.rxCrc == 0 && 6 * s.stats.txFail + s.tx.retries + txPending s.wctl ≤ s.stats.txTotal && storeOk s.cfg s.store

theorem inv_of_checks {s : State} (h : invChecks s = true) : Inv s := by
  simp only [invChecks, Bool.and_eq_true, Bool.or_eq_true, decide_eq_true_eq, beq_iff_eq, bne_iff_ne, Bool.not_eq_true'] at h
  obtain ⟨⟨⟨⟨⟨⟨⟨⟨⟨⟨⟨⟨⟨⟨⟨⟨⟨⟨h1, h2⟩, h3⟩, h4⟩, h5⟩, h6⟩, h7⟩, h8⟩, h9⟩, h10⟩, h11⟩, h12⟩, h13⟩, h14⟩, h15⟩, h16⟩, h17⟩, h18⟩, h19⟩ := h
  exact
    { config := h1, mem := h2, inqData := h3
      releasedUnpolled := fun h => h4.resolve_left (fun hn => hn h)
      txLength := fun h => h5.resolve_left (by simp [h])
      retries := ⟨h6, fun h => h7.resolve_left (by simp [h])⟩
      parity := h8
      times := ⟨h9, fun t ht => by simp [h10] at ht⟩
      overflow := fun h => h11.resolve_left (by simp [h])
      framerAtRest := fun h => by simpa [and_assoc] using h12.resolve_left h
      worker := h13, decoder := h14
      stopped := fun h => h15.resolve_left (by simp [h])
      rxSum := h16, rxCrc := h17, txSum := h18, store := h19 }

/-! ### Decoding, the step, the environment -/

theorem test_witness_DecodeEncode :
    [Instr.rxData 0x8B, .macRel 0x08, .macRel 0x7F, .dataAddr [0x05, 0x10, 0x18, 0, 0, 0x5A], .dataPreempt (fromMaster 6),
      .dataPreempt (fromMaster 32), .dataUnassigned [0x10, 0x08, 0x3D, 0, 1, 0x5A], .dataClassify (fromMaster 6),
      .dataReadreq [0x0B, 0x88, 0x18, 0, 1, 0x5A], .decGuard fastPacket 26, .decUbaErr errPacket,
      .decUndecoded [0x10, 0x08, 0x99, 0, 0, 0x5A] .unknownKey].all
      (fun i => i.wf && keyFits Cfg.default i) = true := rfl

/-- A pending call; a raised stop; a read; a call and an idle step of the decoder agent. -/
theorem test_witness_StepRunsDecoded :
    configOk Cfg.default = true ∧ State.reset.stopped = false ∧
    (ctlPoint (at_ [.mac 0x01]) (.mac 0x01)).1 = .mac ∧ decode Cfg.default .mac [0x01] = .ok .macAck ∧
    ({ at_ [] with stop := true } : State).stop = true ∧
    decode Cfg.default (.raw .idle true) (outcomeBytes (lineRead { at_ [] with line := [.rx 0x8B] }).1) = .ok (.rxData 0x8B) ∧
    (turned [.decoder]).turns = .decoder :: [] ∧ (turned []).turns = [] ∧
    decode Cfg.default (dctlPoint (.key errPacket)).1 (dctlPoint (.key errPacket)).2 = .ok (.decGuard errPacket 13) :=
  ⟨rfl, rfl, rfl, rfl, rfl, rfl, rfl, rfl, rfl⟩

/-- One state for each clause: both sides of `b = 0xFF` and `b = 0x00`, and `RXLEN` 0 and 1. -/
theorem test_witness_WorkerStepSelects :
    (at_ []).wctl = [] ∧ configOk (at_ []).cfg = true ∧ (at_ []).stopped = false ∧ (at_ []).stop = false ∧
    lineRead { at_ [] with line := [.tmo] } = (.timeout, at_ []) ∧
    lineRead { at_ [] with line := [.rx 0xFE] } = (.byte 0xFE, at_ []) ∧
    lineRead { at_ [] with line := [.rx 0xFF] } = (.byte 0xFF, at_ []) ∧
    lineRead { at_ [] with line := [.rx 0x00] } = (.byte 0x00, at_ []) ∧
    lineRead { at_ [] with line := [.rx 0x01] } = (.byte 0x01, at_ []) ∧
    (framed .esc1 0).frm.fs = .esc1 ∧ (framed .esc2 0).frm.rxlen = 0 ∧ 1 ≤ (framed .esc2 1).frm.rxlen :=
  ⟨rfl, rfl, rfl, rfl, rfl, rfl, rfl, rfl, rfl, rfl, rfl, Nat.le_refl 1⟩

theorem test_witness_LineWaits :
    ({ State.reset with line := [.rx 0xFF] } : State).line = .rx 0xFF :: [] ∧
    ({ State.reset with line := [.tmo] } : State).line = .tmo :: [] ∧
    ({ State.reset with line := [.avail, .rx 1] } : State).line = .avail :: [.rx 1] ∧ State.reset.line = [] :=
  ⟨rfl, rfl, rfl, rfl⟩

/-- A packet of 1 and of 32 bytes, and the two that `QPush` does not admit, of 0 and of 33. -/
theorem test_witness_EnvironmentMoves :
    configOk State.reset.cfg = true ∧ (turned [.advance 1]).turns = .advance 1 :: [] ∧
    (turned [.produce [1]]).turns = .produce [1] :: [] ∧ 1 ≤ [1].length ∧ (fromMaster 32).length ≤ 32 ∧
    ([] : List Byte).length = 0 ∧ 32 < (fromMaster 33).length ∧
    (turned [.stopInput true]).turns = .stopInput true :: [] ∧ (turned [.restart]).turns = .restart :: [] := by decide

/-- `OWN_ID` just outside its range, and equal to `MASTER_ID`. -/
theorem test_witness_BadConfigRefused_excluded :
    ¬ ConfigAdmitted { ownId := 0x07 } ∧ ¬ ConfigAdmitted { ownId := 0x80 } ∧ ¬ ConfigAdmitted { ownId := 0x08 } ∧
    ¬ ConfigAdmitted { plusSubtypeOff := 2 } :=
  ⟨fun h => absurd h.1.1 (by decide), fun h => absurd h.1.2 (by decide), fun h => absurd rfl h.2.2.1,
    fun h => absurd h.2.2.2.2.2.1 (by decide)⟩

theorem test_witness_BadConfigRefused_admitted : ConfigAdmitted Cfg.default :=
  ⟨by decide, by decide, by decide, by decide, by decide, by decide, fun _ h => by simp [Cfg.default] at h, by decide⟩

/-- R336 and E16f at their bounds, through the step. -/
theorem test_config_bounds :
    [({ ownId := 0x07 } : Cfg), { ownId := 0x80 }, { ownId := 0x08 }, { ubaErrOffE3 := 12 }, { ubaErrOffModel := 3 },
        { slowOffExhaust := some 4 }, { slowOffExhaust := some 11 }, { slowOffExhaust := some 17 },
        { slowOffExhaust := some 30 }, { optimeMin := 16000001 }, { plusSubtypeOff := 2 },
        { extraRows := [⟨0x08, .exact 0x7F, 0x18, none, .ubaSlow⟩] },
        { extraRows := [⟨0x10, .anyWrite, 0xFF, some 1, .rcTime⟩, ⟨0x10, .exact 0x00, 0xFF, some 2, .rcMode⟩] }].all
      (fun c => !configOk c) = true ∧
    [({ ownId := 0x09 } : Cfg), { ownId := 0x7F }, { ubaErrOffE3 := 11 }, { slowOffExhaust := some 5 },
        { slowOffExhaust := some 10 }, { slowOffExhaust := some 18 }, { slowOffExhaust := some 29 }, { plusSubtypeOff := 3 },
        { extraRows := [⟨0x08, .exact 0x80, 0x18, none, .ubaSlow⟩] },
        { extraRows := [⟨0x10, .exact 0x08, 0xFF, some 1, .rcTime⟩, ⟨0x10, .exact 0x00, 0xFF, some 2, .rcMode⟩] }].all
      configOk = true ∧
    ({ masterId := 0x09 } : Cfg).boilerId = 0x09 ∧ Cfg.default.boilerId = 0x08 := ⟨rfl, rfl, rfl, rfl⟩

/-! ### The framer -/

theorem test_witness_FramerAppends :
    (framed .idle 31).frm.rxlen < 32 ∧ 32 ≤ (framed .idle 32).frm.rxlen ∧ (framed .idle 32).frm.rxovf = false ∧
    ({ framed .idle 32 with frm := { (framed .idle 32).frm with rxovf := true } } : State).frm.rxovf = true ∧
    (Instr.rxLitff = .rxLitff ∧ (0xFF : Byte) = 0xFF) := by decide

theorem test_witness_WireWrites : State.reset.parity = .normal := rfl

theorem test_witness_FramerIsFrame :
    State.reset.frm.fs = .idle ∧ State.reset.frm.rxlen = 0 ∧ State.reset.frm.rxovf = false ∧
    State.reset.frm.rxbuf.length = 32 ∧ State.reset.wctl = [] := by decide

/-- F3, F20 through `Frame`. -/
theorem test_frame :
    frameRef [0x10, 0x00, 0xFF, 0xFF, 0xFF, 0x00, 0x00] = [[0x10, 0x00, 0xFF]] ∧
    frameRef [0x05, 0xFF, 0x00, 0x00, 0x06, 0x07, 0xFF, 0x00, 0x00] = [[0x05], [0x06, 0x07]] := ⟨rfl, rfl⟩

/-! ### The arbiter -/

/-- The shortest long telegram and the longest, and the lengths where short and data meet. -/
theorem test_witness_TelegramDispatch :
    2 ≤ (fromMaster 2).length ∧ (fromMaster 5).length < 6 ∧ 6 ≤ (fromMaster 6).length ∧ (fromMaster 32).length ≤ 32 := by decide

theorem test_witness_MacTable :
    configOk Cfg.default = true ∧ (prior .wrote (some 0x0D)).stopped = false ∧
    ({ prior .wrote (some 0x0D) with wctl := [.telegram [0x01]], turns := [.worker, .worker] } : State).wctl =
      [.telegram [0x01]] ∧
    ({ prior .wrote (some 0x0D) with wctl := [.telegram [0x01]], turns := [.worker, .worker] } : State).turns =
      .worker :: .worker :: [] := ⟨rfl, rfl, rfl, rfl⟩

/-- For DataDrops, ReadResponse, DataAccepted: the shortest and the longest data telegram. -/
theorem test_witness_data_lengths :
    6 ≤ (fromMaster 6).length ∧ (fromMaster 6).length ≤ 32 ∧ 6 ≤ (fromMaster 32).length ∧ (fromMaster 32).length ≤ 32 := by
  decide

/-- For DataOrder: an invalid source, an invalid destination, the master without and with a match, each `BS`. -/
theorem test_witness_DataOrder :
    validSrc (byteAt [0x07, 0x10, 0, 0, 0, 0] 0) = false ∧ validDst (byteAt [0x08, 0x87, 0, 0, 0, 0] 1) = false ∧
    validSrc (byteAt (fromMaster 6) 0) = true ∧ validDst (byteAt (fromMaster 6) 1) = true ∧
    byteAt (fromMaster 6) 0 = Cfg.default.masterId ∧ byteAt [0x7F, 0x88, 0, 0, 0, 0] 0 ≠ Cfg.default.masterId ∧
    (prior .released none).arb.bs = .released ∧ (prior .assigned none).arb.bs = .assigned ∧
    (prior .read none).arb.bs = .read ∧ (prior .wrote none).arb.bs = .wrote := by decide

/-- For DataClasses: a destination in each class, at its bounds. -/
theorem test_witness_DataClasses :
    (decodeDest [8, 0x80, 0, 0, 0, 0], decodeDest [8, 0x7F, 0, 0, 0, 0], decodeDest [8, 0x08, 0, 0, 0, 0],
      decodeDest [8, 0x07, 0, 0, 0, 0]) =
    (.dataReadreq [8, 0x80, 0, 0, 0, 0], .dataWrite [8, 0x7F, 0, 0, 0, 0], .dataWrite [8, 0x08, 0, 0, 0, 0],
      .dataBcast [8, 0x07, 0, 0, 0, 0]) := rfl

theorem test_witness_DataTable :
    configOk Cfg.default = true ∧ 6 ≤ (fromMaster 6).length ∧ (fromMaster 32).length ≤ 32 ∧
    validSrc (byteAt (fromMaster 6) 0) = true ∧ validDst (byteAt (fromMaster 6) 1) = true ∧
    ({ turned (List.replicate 6 .worker ++ [.decoder]) with wctl := [.telegram (fromMaster 6)] } : State).stopped = false ∧
    ({ turned (List.replicate 6 .worker ++ [.decoder]) with wctl := [.telegram (fromMaster 6)] } : State).turns =
      List.replicate 6 .worker ++ [.decoder] := by decide

/-! ### The Transmit Engine -/

/-- Each place of one invocation, with both values of `TXPEND` and of the budget's report. -/
theorem test_witness_InvocationOrder :
    configOk Cfg.default = true ∧ (at_ [.op .txPull, .pulled]).stopped = false ∧
    (at_ [.op .txPull, .pulled]).turns = .worker :: [] ∧ (at_ [.op .txPull, .pulled]).wctl = .op .txPull :: [.pulled] ∧
    (at_ [.pulled]).tx.txpend = false ∧ (pending 0).tx.txpend = true ∧ (at_ [.stamped]).wctl = .stamped :: [] ∧
    (at_ [.budgeted]).wret = false ∧ ({ at_ [.budgeted] with wret := true } : State).wret = true ∧
    (at_ [.attempted ⟨1, 2, 3, 4⟩]).wctl = .attempted ⟨1, 2, 3, 4⟩ :: [] ∧
    (at_ [.op (.txState ⟨1, 2, 3, 4⟩)]).wctl = .op (.txState ⟨1, 2, 3, 4⟩) :: [] := by decide

/-- Nothing pulled twice; nothing to pull; a packet of 6 bytes; one of 5. -/
theorem test_witness_TxPull :
    (pending 0).tx.txpend = true ∧ (polled []).tx.txpend = false ∧ (polled []).outq = [] ∧
    (polled [fromMaster 6]).outq = fromMaster 6 :: [] ∧ 6 ≤ (fromMaster 6).length ∧ (fromMaster 5).length < 6 := by decide

/-- For TxStamp and StampingIdempotent: 6 and 32 bytes. -/
theorem test_witness_TxStamp :
    (pending 0).tx.txbuf.length = 32 ∧ 6 ≤ (pending 0).tx.txlen ∧ (pending 0).tx.txlen ≤ 32 ∧
    ({ pending 0 with tx := { (pending 0).tx with txlen := 32 } } : State).tx.txlen ≤ 32 := by decide

theorem test_witness_TxBudget :
    ({ pending 2 with now := 1200 } : State).now - (pending 2).tx.acqTime ≤ 200 ∧
    200 < ({ pending 2 with now := 1201 } : State).now - (pending 2).tx.acqTime := by decide

/-- The four waits, with a time-out, a wrong byte, the byte expected (0xFF and another) and a raised stop. -/
theorem test_witness_TxWrite :
    1 ≤ ([0x0D, 0xFF] : Telegram).length ∧ (pending 0).tx.txp = .idle ∧
    ([0x0D, 0xFF] : Telegram)[1]? = some 0xFF ∧ ([0x0D, 0xFF] : Telegram)[0]? = some 0x0D ∧
    ({ pending 0 with tx := { (pending 0).tx with txp := .echo 1 } } : State).tx.txp = .echo 1 ∧
    ({ pending 0 with tx := { (pending 0).tx with txp := .echo2 1 } } : State).tx.txp = .echo2 1 ∧
    ({ pending 0 with tx := { (pending 0).tx with txp := .act } } : State).tx.txp = .act ∧
    lineRead { pending 0 with line := [.tmo] } = (.timeout, pending 0) ∧
    lineRead { pending 0 with line := [.rx 0xFF] } = (.byte 0xFF, pending 0) ∧
    lineRead { pending 0 with line := [.rx 0x0D] } = (.byte 0x0D, pending 0) ∧
    lineAvail { pending 0 with line := [.tmo] } = (false, pending 0) ∧
    lineAvail { pending 0 with line := [.avail] } = (true, pending 0) ∧
    (pending 0).stop = false ∧ ({ pending 0 with stop := true } : State).stop = true :=
  ⟨by decide, rfl, rfl, rfl, rfl, rfl, rfl, rfl, rfl, rfl, rfl, rfl, rfl, rfl⟩

theorem test_witness_TxResult :
    (pending 4).tx.retries < 5 ∧ 5 ≤ (pending 5).tx.retries ∧ 4 ≤ (pending 5).tx.txlen := by decide

/-- Destinations 0x80, 0x7F, 0x08 and 0x07. -/
theorem test_witness_TxState :
    0x80 ≤ (0x80 : Byte).toNat ∧ 0x08 ≤ (0x7F : Byte).toNat ∧ (0x7F : Byte).toNat < 0x80 ∧ 0x08 ≤ (0x08 : Byte).toNat ∧
    (0x07 : Byte).toNat < 0x08 := by decide

/-- The state of `WriteUnderEcho` for the release reply `[0D]`, and for `[FF]`. -/
def writing (t : Telegram) : State :=
  { polled [] with
    wctl := [.write t, .op (.txRelease .finish)]
    line := echoItems t ++ itemsBrk ++ [.tmo]
    turns := List.replicate (writeSteps t) .worker ++ [.decoder] }

theorem test_witness_WriteUnderEcho :
    configOk (writing [0x0D]).cfg = true ∧ 1 ≤ ([0x0D] : Telegram).length ∧ ([0xFF] : Telegram).length ≤ 32 ∧
    (writing [0xFF]).stopped = false ∧ (writing [0xFF]).stop = false ∧ (writing [0xFF]).parity = .normal ∧
    (writing [0xFF]).tx.txp = .idle ∧ (writing [0xFF]).wctl = .write [0xFF] :: [.op (.txRelease .finish)] ∧
    (writing [0xFF]).line = [.rx 0xFF, .rx 0xFF, .rx 0xFF, .rx 0x00, .rx 0x00, .tmo] ∧
    (writing [0xFF]).turns = List.replicate 6 .worker ++ [.decoder] := by decide

/-- The stamped packet of X1. -/
def stampedX1 : Telegram := [0x0D, 0x10, 0x3D, 0x05, 0x28, Config.checksum [0x0D, 0x10, 0x3D, 0x05, 0x28]]

/-- The state of `InvocationSends`: X1. -/
def sending : State :=
  { polled [[0x00, 0x10, 0x3D, 0x05, 0x28, 0x00]] with
    wctl := [.op .txInvoke]
    line := echoItems stampedX1 ++ itemsBrk ++ []
    turns := List.replicate (7 + writeSteps stampedX1) .worker ++ [] }

theorem test_witness_InvocationSends :
    Inv sending ∧ sending.stop = false ∧ sending.tx.txpend = false ∧
    sending.outq = [0x00, 0x10, 0x3D, 0x05, 0x28, 0x00] :: [] ∧ sending.now - sending.tx.acqTime ≤ 200 ∧
    sending.wctl = [.op .txInvoke] ∧
    sending.cfg.ownId :: (([0x00, 0x10, 0x3D, 0x05, 0x28, 0x00] : List Byte).take 5).drop 1 = [0x0D, 0x10, 0x3D, 0x05, 0x28] ∧
    sending.line = echoItems stampedX1 ++ itemsBrk ++ [] ∧
    sending.turns = List.replicate (7 + writeSteps stampedX1) .worker ++ [] :=
  ⟨inv_of_checks rfl, rfl, rfl, rfl, Nat.zero_le _, rfl, rfl, rfl, rfl⟩

/-- The state of `InvocationReleases`: P2. -/
def releasing : State :=
  { polled [] with wctl := [.op .txInvoke], line := .rx 0x0D :: (itemsBrk ++ []), turns := List.replicate 9 .worker ++ [] }

theorem test_witness_InvocationReleases :
    Inv releasing ∧ releasing.stop = false ∧ releasing.tx.txpend = false ∧ releasing.outq = [] ∧
    releasing.wctl = [.op .txInvoke] ∧ releasing.line = .rx releasing.cfg.ownId :: (itemsBrk ++ []) ∧
    releasing.turns = List.replicate 9 .worker ++ [] :=
  ⟨inv_of_checks rfl, rfl, rfl, rfl, rfl, rfl, rfl⟩

/-- The state of `InvocationSilentLine`: P4, with `retries` failed attempts behind. -/
def silent (retries : Nat) : State :=
  { pending retries with
    wctl := [.op .txInvoke]
    line := .tmo :: []
    turns := List.replicate 10 .worker ++ []
    stats := { State.reset.stats with txTotal := 5 } }

theorem test_witness_InvocationSilentLine :
    Inv (silent 4) ∧ Inv (silent 5) ∧ (silent 4).stop = false ∧ (silent 4).tx.txpend = true ∧
    (silent 4).now - (silent 4).tx.acqTime ≤ 200 ∧ (silent 4).wctl = [.op .txInvoke] ∧ (silent 4).line = .tmo :: [] ∧
    (silent 4).turns = List.replicate 10 .worker ++ [] ∧ (silent 4).tx.retries < 5 ∧ (silent 5).tx.retries = 5 :=
  ⟨inv_of_checks rfl, inv_of_checks rfl, rfl, rfl, Nat.zero_le _, rfl, rfl, rfl, by decide, rfl⟩

/-- A write of the release reply's byte is the next step. -/
def driving : State :=
  { polled [] with
    turns := [.worker]
    tx := { (polled []).tx with txp := .echo 0 }
    wctl := [.op (.txwByte 0x0D), .write [0x0D], .op (.txRelease .finish)] }

theorem test_witness_DrivesOnlyWhenGranted :
    Inv driving ∧
    step driving = .next { driving with
      turns := [], wctl := [.write [0x0D], .op (.txRelease .finish)], lineOut := [.write 0x0D .normal] } ∧
    driving.lineOut = [] := ⟨inv_of_checks rfl, rfl, rfl⟩

/-! ### The decoder -/

theorem test_witness_DecRecv :
    State.reset.inq = [] ∧ ({ State.reset with inq := [fromMaster 5] } : State).inq = fromMaster 5 :: [] ∧
    (fromMaster 5).length < 6 ∧ 6 ≤ (fromMaster 6).length := by decide

/-- A plus key, a key with a row, a read request and an unknown key; 6 and 32 bytes. -/
theorem test_witness_DecDispatch :
    6 ≤ (fromMaster 6).length ∧ (fromMaster 32).length ≤ 32 ∧ byteAt [0x10, 0x00, 0xFF, 0, 1, 0x5A] 2 = 0xFF ∧
    byteAt (fromMaster 6) 2 ≠ 0xFF := by decide

theorem test_witness_DecGuard : (fromMaster 25).length < 26 ∧ 26 ≤ (fromMaster 26).length := by decide

/-- For DecBoilerMonitors, DecUbaSlow, DecThermostatErr: the shortest telegram each layout admits. -/
theorem test_witness_layout_lengths :
    26 ≤ fastPacket.length ∧ 19 ≤ wwPacket.length ∧ 19 ≤ (slowPacket 0 0).length ∧ 13 ≤ timePacket.length ∧
    28 ≤ modePacket.length ∧ 13 ≤ errPacket.length ∧ configOk State.reset.cfg = true := by decide

/-- E9: a plus telegram of 6 bytes. -/
theorem test_witness_DecPlusUndecoded :
    6 ≤ ([0x10, 0x00, 0xFF, 0, 1, 0x5A] : Telegram).length ∧ byteAt [0x10, 0x00, 0xFF, 0, 1, 0x5A] 2 = 0xFF := by decide

theorem test_witness_LayoutIdempotent :
    exec (layoutInstr errPacket .ubaErr) State.reset =
      .next { State.reset with
        dret := true, store := { Store.empty with err := ⟨some 95, some 1, some 2, some 3⟩ } } := rfl

/-- The packets E2 (dropped), E3 (undecoded) and E14 (applied). -/
def draining (p : List Byte) : State := { turned (List.replicate 5 .decoder ++ []) with inq := p :: [] }

theorem test_witness_DecoderDrains :
    configOk (draining errPacket).cfg = true ∧ (draining errPacket).dctl = [] ∧
    (draining errPacket).inq = errPacket :: [] ∧ errPacket.length ≤ 32 ∧ (fromMaster 5).length ≤ 32 ∧
    (draining errPacket).turns = List.replicate 5 .decoder ++ [] := by decide

/-- E14 is exactly long enough for its row. -/
theorem test_witness_DecoderAppliesRow :
    configOk State.reset.cfg = true ∧ State.reset.dctl = [] ∧ 6 ≤ errPacket.length ∧ errPacket.length ≤ 32 ∧
    byteAt errPacket 2 ≠ 0xFF ∧ findRow State.reset.cfg errPacket = some ⟨0x08, .anyWrite, 0xBF, none, .ubaErr⟩ ∧
    layoutMinLen .ubaErr ≤ errPacket.length ∧
    ({ turned (List.replicate 4 .decoder ++ []) with inq := errPacket :: [] } : State).inq = errPacket :: [] := by decide

/-! ### Stop, faults, invariants -/

/-- Z3, Z4. -/
theorem test_witness_StopHaltsTheWorker :
    configOk State.reset.cfg = true ∧
    ({ turned [.worker] with stopped := true } : State).stopped = true ∧
    ({ turned [.decoder] with stopped := true, inq := [fromMaster 6] } : State).inq = fromMaster 6 :: [] ∧
    6 ≤ (fromMaster 6).length := by decide

/-- One byte too few for each group. -/
theorem test_witness_ShortTelegramFaults :
    (fromMaster 5).length < 6 ∧ (fromMaster 25).length < 26 ∧ (fromMaster 18).length < 19 ∧ (fromMaster 12).length < 13 ∧
    (fromMaster 27).length < 28 ∧ (State.reset.tx.txbuf.take State.reset.tx.txlen).length < 6 := by decide

/-- For InvKept, StepTotal and Ownership: a turn of the worker inside an invocation, and one of the decoder agent. -/
theorem test_witness_InvKept :
    Inv driving ∧
    step driving = .next { driving with
      turns := [], wctl := [.write [0x0D], .op (.txRelease .finish)], lineOut := [.write 0x0D .normal] } ∧
    (takeTurn driving).1 = .worker ∧ Inv (draining errPacket) ∧ (takeTurn (draining errPacket)).1 = .decoder ∧
    step (draining errPacket) = .next { turned (List.replicate 4 .decoder) with dctl := [.op (.decDispatch errPacket)] } :=
  ⟨inv_of_checks rfl, rfl, rfl, inv_of_checks rfl, rfl, rfl⟩

/-- For StepTotal's second part: a producer with a packet of 32 bytes. -/
theorem test_witness_StepTotal :
    Inv (turned [.produce (fromMaster 32)]) ∧ packetOk (fromMaster 32) = true ∧
    (takeTurn (turned [.produce (fromMaster 32)])).1 = .produce (fromMaster 32) := ⟨inv_of_checks rfl, rfl, rfl⟩

/-- For CountersMonotone, ValidBitsStay and RecordsGrow: an ACK in a state that makes it a MAC error. -/
theorem test_witness_CountersMonotone :
    (takeTurn (at_ [.mac 0x01])).1 ≠ .restart ∧
    step (at_ [.mac 0x01]) = .next { turned [] with
      arb := { State.reset.arb with bs := .assigned }, stats := { State.reset.stats with macErr := 1 },
      wlog := [.macErr .ackWithoutWrite 0x01 .released] } := ⟨by decide, rfl⟩

/-- For RecordsGrow: a stopped worker's turn. -/
theorem test_witness_RecordsGrow :
    step { turned [.worker] with stopped := true } = .next { turned [] with stopped := true } ∧
    (takeTurn { turned [.worker] with stopped := true }).1 ≠ .restart := ⟨rfl, by decide⟩

/-- For EventsCount: an operation with an event and a counter, and one without. -/
theorem test_witness_EventsCount :
    exec (.macRsvd 0x00) State.reset = .next { State.reset with
      stats := { State.reset.stats with macErr := 1 }, wlog := [.macErr .reservedValue 0x00 .released] } ∧
    exec .rxTmo State.reset = .next State.reset := ⟨rfl, rfl⟩

end Sys2Proof.Tests
end

section
/-! The length guards of the operations that read a telegram (00_scope.md R11, 20_memory.md R64). Each of these operations is a
`need k t r` with its rule's bound `k`, so `need_of_lt` is the one reason all of them fault on a telegram below it. -/

namespace Sys2Proof.Machine

/-- The guard of `TX.STAMP` is on the telegram before the stamp, `TXBUF[0..TXLEN-1]` (R202). -/
theorem exec_txStamp_of_short {s : State} (h : (txTelegram s).length < 6) : exec .txStamp s = .fault .telegramIndex :=
  need_of_lt _ h

/-- The guard of `DEC.UBA_ERR` is at least 13, wherever the configuration puts the four fields (R250). -/
theorem exec_decUbaErr_of_short {s : State} {t : Telegram} (h : t.length < 13) :
    exec (.decUbaErr t) s = .fault .telegramIndex :=
  need_of_lt _ (lt_of_lt_of_le h (le_max_left _ _))

/-- Settles O53, by cases on the guard: 6 for the data operations, `DEC.DISPATCH` and `DEC.PLUS`, then each layout's own, then
`TX.STAMP`. -/
theorem shortTelegramFaults : Obligations.ShortTelegramFaults := by
  rintro s t i (⟨short, data⟩ | ⟨short, rfl⟩ | ⟨short, rfl | rfl⟩ | ⟨short, rfl | rfl⟩ | ⟨short, rfl⟩ | ⟨short, rfl⟩)
  · rcases data with rfl | rfl | rfl | rfl | rfl | rfl | rfl | rfl | rfl | rfl | rfl | rfl | rfl | rfl <;>
      exact need_of_lt _ short
  · exact need_of_lt _ short -- `DEC.UBA_FAST`
  · exact need_of_lt _ short -- `DEC.UBA_SLOW`
  · exact need_of_lt _ short -- `DEC.UBA_WW`
  · exact need_of_lt _ short -- `DEC.RC_TIME`
  · exact exec_decUbaErr_of_short short
  · exact need_of_lt _ short -- `DEC.RC_MODE`
  · exact exec_txStamp_of_short short

end Sys2Proof.Machine
end

section
/-! What every operation leaves: the configuration and the time it does not touch, the records it only extends, the counters it
moves by one at most, the valid bits it keeps (10_state.md R21, R36, R40, R45; 60_exceptions.md R290, R312). -/

namespace Sys2Proof.Machine

/-! ### The shape of the state after a fetch or a wait -/

/-- Taking a turn writes the list of turns and the counter of free values only. -/
theorem takeTurn_snd_eq (s : State) : ∃ ts d, (takeTurn s).2 = { s with turns := ts, draws := d } := by
  obtain ⟨t, ts, -, he⟩ | ⟨-, he⟩ := takeTurn_cases s
  · exact ⟨ts, s.draws, by rw [he]⟩
  · exact ⟨s.turns, s.draws + 1, by rw [he]⟩

/-- A `LineRead` writes the line's answers and the counter of free values only. -/
theorem lineRead_snd_eq (s : State) : ∃ l d, (lineRead s).2 = { s with line := l, draws := d } := by
  unfold lineRead
  cases readItems s.line with
  | some r => exact ⟨r.2, s.draws, rfl⟩
  | none => exact ⟨[], s.draws + 1, rfl⟩

/-- A `LineAvail` writes the line's answers and the counter of free values only. -/
theorem lineAvail_snd_eq (s : State) : ∃ l d, (lineAvail s).2 = { s with line := l, draws := d } := by
  unfold lineAvail
  split
  · exact ⟨s.line, s.draws, rfl⟩
  · exact ⟨_, s.draws, rfl⟩
  · exact ⟨_, s.draws, rfl⟩
  · exact ⟨s.line, s.draws + 1, rfl⟩

/-- The worker's fetch writes its pending calls, the line's answers and the counter of free values only. -/
theorem workerFetch_snd_eq (s : State) :
    ∃ cs l d, (workerFetch s).2 = { s with wctl := cs, line := l, draws := d } := by
  cases hw : s.wctl with
  | cons c k => exact ⟨_, s.line, s.draws, by rw [workerFetch_cons hw]⟩
  | nil =>
    obtain hs | hs := Bool.eq_false_or_eq_true s.stop
    · exact ⟨s.wctl, s.line, s.draws, by rw [workerFetch_stop hw hs]⟩
    · obtain ⟨l, d, he⟩ := lineRead_snd_eq s
      exact ⟨s.wctl, l, d, by rw [workerFetch_read hw hs, he]⟩

/-- The decoder agent's fetch writes its pending calls only. -/
theorem decoderFetch_snd_eq (s : State) : ∃ cs, (decoderFetch s).2 = { s with dctl := cs } := by
  cases hd : s.dctl with
  | cons c k => exact ⟨k, by rw [decoderFetch_cons hd]⟩
  | nil => exact ⟨s.dctl, by rw [decoderFetch_nil hd]⟩

/-! ### The outcomes of the operations that have several -/

/-- What `DATA.ACCEPT` does (R179). -/
theorem execDataAccept_eq_next {s u : State} {t : Telegram} (h : execDataAccept t s = .next u) :
    packetOk t = true ∧ u = pushIn t (count .rxSuccess s) := by
  unfold execDataAccept at h
  split at h <;> cases h
  exact ⟨‹_›, rfl⟩

/-- What a producer's turn does (R66). -/
theorem runTurn_produce_eq_next {s u : State} {p : List Byte} (h : runTurn (.produce p) s = .next u) :
    packetOk p = true ∧ u = pushOut p s := by
  simp only [runTurn] at h
  split at h <;> cases h
  exact ⟨‹_›, rfl⟩

/-- What `TX.PULL` does (R201). -/
theorem execTxPull_cases {s u : State} (h : execTxPull s = .next u) :
    u = s ∨ ∃ p q, s.tx.txpend = false ∧ s.outq = p :: q ∧
      ((minDataLen ≤ p.length ∧ u = loadTx p { s with outq := q }) ∨
        u = raiseW (.txBadPacket p.length) { s with outq := q }) := by
  unfold execTxPull at h
  split at h
  · cases h; exact .inl rfl
  · obtain ⟨-, he⟩ | ⟨p, q, hq, he⟩ := qTryRecv_cases s.outq
    · rw [he] at h; cases h; exact .inl rfl
    · rw [he] at h
      have idle : s.tx.txpend = false := by simpa using ‹¬s.tx.txpend = true›
      by_cases hl : minDataLen ≤ p.length
      · simp only [if_pos hl] at h
        cases h; exact .inr ⟨p, q, idle, hq, .inl ⟨hl, rfl⟩⟩
      · simp only [if_neg hl] at h
        cases h; exact .inr ⟨p, q, idle, hq, .inr rfl⟩

/-- What one resumption of `WriteTelegram` does (R205): a stop, a failure, the end, the next byte, or the wait for the second
echo of an escaped byte. `v` is the state after the wait. -/
theorem execTxWrite_cases {s u : State} {t : Telegram} (h : execTxWrite t s = .next u) :
    ∃ v l d, v = { s with line := l, draws := d } ∧
      (u = stopWorker v ∨ (∃ e, u = writeFails e v) ∨ u = returnW true v ∨ (∃ i, u = writeFrom t i v) ∨
        ∃ i, i < t.length ∧ u = callW [.write t] (setTxp (.echo2 i) v)) := by
  obtain ⟨l, d, hread⟩ := lineRead_snd_eq s
  obtain ⟨l', d', havail⟩ := lineAvail_snd_eq s
  rcases hr : lineRead s with ⟨o, v⟩
  rcases ha : lineAvail s with ⟨ok, v'⟩
  rw [hr] at hread
  rw [ha] at havail
  unfold execTxWrite at h
  simp only [hr, ha] at h
  split at h
  case h_1 => cases h; exact ⟨s, s.line, s.draws, rfl, .inr (.inr (.inr (.inl ⟨0, rfl⟩)))⟩
  case h_2 i _ =>
    refine ⟨v, l, d, hread, ?_⟩
    split at h
    · cases h
    · rename_i b hb
      have hi : i < t.length := (List.getElem?_eq_some_iff.mp hb).1
      split at h
      · cases h; exact .inl rfl
      · split at h
        · cases h; exact .inr (.inl ⟨_, rfl⟩)
        · split at h
          · cases h; exact .inr (.inl ⟨_, rfl⟩)
          · split at h <;> cases h
            · exact .inr (.inr (.inr (.inr ⟨i, hi, rfl⟩)))
            · exact .inr (.inr (.inr (.inl ⟨i + 1, rfl⟩)))
  case h_3 i _ =>
    refine ⟨v, l, d, hread, ?_⟩
    split at h
    · cases h; exact .inl rfl
    · split at h
      · cases h; exact .inr (.inl ⟨_, rfl⟩)
      · split at h <;> cases h
        · exact .inr (.inl ⟨_, rfl⟩)
        · exact .inr (.inr (.inr (.inl ⟨i + 1, rfl⟩)))
  case h_4 =>
    refine ⟨v', l', d', havail, ?_⟩
    split at h
    · cases h; exact .inl rfl
    · split at h <;> cases h
      · exact .inr (.inr (.inl rfl))
      · exact .inr (.inl ⟨_, rfl⟩)

/-- What `TX.RESULT(ok)` does (R206). -/
theorem execTxResult_cases {s u : State} {ok : Bool} (h : execTxResult ok s = .next u) :
    u = dropTx s ∨
      (maxRetries < s.tx.retries + 1 ∧ u = dropTx (count .txFail (raiseW (.txDropped (headerOf (txTelegram s))) s))) ∨
      (s.tx.retries + 1 ≤ maxRetries ∧ u = { s with tx := { s.tx with retries := s.tx.retries + 1 } }) := by
  unfold execTxResult at h
  split at h
  · cases h; exact .inl rfl
  · split at h <;> cases h
    · exact .inr (.inl ⟨‹_›, rfl⟩)
    · exact .inr (.inr ⟨Nat.not_lt.mp ‹_›, rfl⟩)

/-- What `TX.STATE(hdr)` does (R207). -/
theorem execTxState_cases {s u : State} {hdr : Header} (h : execTxState hdr s = .next u) :
    (∃ x, u = setTxp .idle (expectRead x s)) ∨ u = setTxp .idle (setBs .wrote s) ∨ u = setTxp .idle s := by
  simp only [execTxState] at h
  split at h
  · cases h; exact .inl ⟨_, rfl⟩
  · split at h <;> cases h
    · exact .inr (.inl rfl)
    · exact .inr (.inr rfl)

/-- What `TX.BUDGET` does (R203). -/
theorem execTxBudget_cases {s u : State} (h : execTxBudget s = .next u) :
    (∃ e, u = returnW true (raiseW e s)) ∨ u = returnW false s := by
  unfold execTxBudget at h
  split at h <;> cases h
  · exact .inl ⟨_, rfl⟩
  · exact .inr rfl

/-- `BS <- Assigned ; POLLED <- id` (R163). -/
def assignBus (id : DevId) (s : State) : State := { s with arb := { s.arb with bs := .assigned, polled := some id } }

/-- `ACQ_TIME <- Now()` (R163). -/
def stampAcqTime (s : State) : State := { s with tx := { s.tx with acqTime := nowOf s } }

/-- `macCheck` leaves the state, or counts and reports. -/
theorem macCheck_cases (ok : Bool) (k : MacCause) (v : Byte) (s : State) :
    macCheck ok k v s = s ∨ macCheck ok k v s = count .macErr (raiseW (.macErr k v s.arb.bs) s) := by
  cases ok
  · exact .inr rfl
  · exact .inl rfl

/-- What `MAC.ASSIGN` does (R163). -/
theorem execMacAssign_cases {s u : State} {id : DevId} (h : execMacAssign id s = .next u) :
    ∃ v, (v = s ∨ ∃ e, v = count .macErr (raiseW e s)) ∧
      ((ownBus (assignBus id v) = true ∧ u = callW [.op .txInvoke] (stampAcqTime (assignBus id v))) ∨
        u = assignBus id v) := by
  simp only [execMacAssign] at h
  refine ⟨macCheck (s.arb.bs == .released || s.arb.bs == .assigned) .assignInBadState (0x80 ||| id.setWidth 8) s,
    (macCheck_cases _ _ _ s).imp_right fun hv => ⟨_, hv⟩, ?_⟩
  split at h <;> cases h
  · exact .inl ⟨‹_›, rfl⟩
  · exact .inr rfl

/-- What `DEC.RECV` does (R240). -/
theorem execDecRecv_cases {s u : State} (h : execDecRecv s = .next u) :
    u = s ∨ ∃ p q, s.inq = p :: q ∧
      (u = { s with inq := q } ∨ (minDataLen ≤ p.length ∧ u = callD (.op (.decDispatch p)) { s with inq := q })) := by
  unfold execDecRecv at h
  obtain ⟨-, he⟩ | ⟨p, q, hq, he⟩ := qTryRecv_cases s.inq
  · rw [he] at h; cases h; exact .inl rfl
  · rw [he] at h
    by_cases hl : p.length < minDataLen
    · simp only [if_pos hl] at h
      cases h; exact .inr ⟨p, q, hq, .inl rfl⟩
    · simp only [if_neg hl] at h
      cases h; exact .inr ⟨p, q, hq, .inr ⟨Nat.not_lt.mp hl, rfl⟩⟩

/-- What `DEC.PLUS` does (R251). -/
theorem execDecPlus_cases {s u : State} {t : Telegram} (h : execDecPlus t s = .next u) :
    (∃ c, u = callD (.op (.decUndecoded t c)) s) ∨
      ∃ r, findRow s.cfg t = some r ∧ u = callD (.op (.decGuard t (layoutMinLen r.layout))) s := by
  obtain ⟨-, h⟩ := need_eq_next.mp h
  split at h <;> cases h
  · exact .inl ⟨_, rfl⟩
  · exact .inr ⟨_, ‹_›, rfl⟩

/-- What `DEC.GUARD` does (R243). -/
theorem execDecGuard_cases {s u : State} {t : Telegram} {n : Nat} (h : execDecGuard t n s = .next u) :
    u = callD (.op (.decUndecoded t .tooShortForLayout)) s ∨ (n ≤ t.length ∧ u = callD (.layout t) s) := by
  unfold execDecGuard at h
  split at h <;> cases h
  · exact .inl rfl
  · exact .inr ⟨Nat.not_lt.mp ‹_›, rfl⟩

/-- A filter writes its verdict and, on a reject, the decoder agent's record. -/
theorem applyFilter_eq (ok : Bool) (f : FilteredField) (v : Int) (s : State) :
    ∃ a, applyFilter ok f v s = { s with dret := ok, dlog := s.dlog ++ a } := by
  cases ok with
  | true => exact ⟨[], by rw [List.append_nil]; rfl⟩
  | false => exact ⟨_, rfl⟩

/-- A candidate that is part of the update was accepted (R244). -/
theorem ifAccepted_eq_some {α : Type} {s : State} {v w : α} (h : ifAccepted s v = some w) : w = v ∧ s.dret = true := by
  rw [ifAccepted_eq] at h
  split at h
  · exact ⟨(Option.some.inj h).symm, ‹_›⟩
  · cases h

/-- The exhaust candidate is a signed 16-bit number of the telegram (R246). -/
theorem exhaustCandidate_eq_some {c : Cfg} {t : Telegram} {v : Int} (h : exhaustCandidate c t = some v) :
    ∃ k, v = sext16 (be16 t k) := by
  unfold exhaustCandidate at h
  split at h
  · cases h
  · split at h <;> cases h
    exact ⟨_, rfl⟩

/-- What `DEC.UBA_SLOW` does (R246): it commits an update whose three filtered fields, where they have a value, have one their
filter accepted. -/
theorem execDecUbaSlow_cases {s u : State} {t : Telegram} (h : execDecUbaSlow t s = .next u) :
    ∃ r b a, u = commitSlow r { s with dret := b, dlog := s.dlog ++ a } ∧
      (∀ v, r.starts = some v → v = be24 t 12 ∧ startsOk s.cfg (be24 t 12) = true) ∧
      (∀ v, r.optimeMin = some v → v = be24 t 15 ∧ optimeOk s.cfg s.store.slow.optimeMin (be24 t 15) = true) ∧
      (∀ v, r.exhaustTemp = some v → (∃ k, v = sext16 (be16 t k)) ∧ exhaustOk s.cfg v = true) := by
  obtain ⟨a₁, h₁⟩ := applyFilter_eq (startsOk s.cfg (be24 t 12)) .slowStarts (be24 t 12) s
  obtain ⟨a₂, h₂⟩ := applyFilter_eq (optimeOk s.cfg s.store.slow.optimeMin (be24 t 15)) .slowOptimeMin (be24 t 15)
    { s with dret := startsOk s.cfg (be24 t 12), dlog := s.dlog ++ a₁ }
  obtain ⟨-, h⟩ := need_eq_next.mp h
  simp only [filterStarts, filterOptime, h₁, h₂] at h
  cases hc : exhaustCandidate s.cfg t with
  | none =>
    simp only [hc] at h
    cases h
    refine ⟨_, true, a₁ ++ a₂, by rw [← List.append_assoc]; rfl, ?_, ?_, ?_⟩
    · exact fun v hv => ifAccepted_eq_some hv
    · exact fun v hv => ifAccepted_eq_some hv
    · exact fun v hv => nomatch hv
  | some x =>
    obtain ⟨a₃, h₃⟩ := applyFilter_eq (exhaustOk s.cfg x) .slowExhaustTemp x
      { s with dret := true, dlog := s.dlog ++ a₁ ++ a₂ }
    simp only [hc, filterPass, filterExhaust, h₃] at h
    cases h
    refine ⟨_, exhaustOk s.cfg x, a₁ ++ a₂ ++ a₃, by simp only [List.append_assoc]; rfl, ?_, ?_, ?_⟩
    · exact fun v hv => ifAccepted_eq_some hv
    · exact fun v hv => ifAccepted_eq_some hv
    · intro v hv
      obtain ⟨hx, ok⟩ := ifAccepted_eq_some hv
      subst hx
      exact ⟨exhaustCandidate_eq_some hc, ok⟩

/-! ### The frame -/

/-- What one operation does to the elements that only grow or stay. An update that leaves a frame's fields as they are keeps it by
unfolding alone: `{ h with }`. -/
structure OpFrame (s u : State) : Prop where
  cfg : u.cfg = s.cfg
  now : s.now ≤ u.now
  wlog : ∃ a, u.wlog = s.wlog ++ a
  dlog : ∃ a, u.dlog = s.dlog ++ a
  lineOut : ∃ a, u.lineOut = s.lineOut ++ a
  stopped : s.stopped = true → u.stopped = true
  stats : u.stats = s.stats ∨ ∃ c, c ≠ .rxCrc ∧ u.stats = statsInc c s.stats
  store : StoreKeeps s.store u.store

theorem keepsValue_refl {α : Type} (o : Option α) : KeepsValue o o := fun h => h

theorem keepsValue_updated {α : Type} (n o : Option α) : KeepsValue o (updated n o) := updated_isSome n o

theorem storeKeeps_refl (st : Store) : StoreKeeps st st := by simp only [StoreKeeps, keepsValue_refl, and_self]

theorem storeKeeps_commitFast (r : RecFast) (s : State) : StoreKeeps s.store (commitFast r s).store := by
  simp only [StoreKeeps, commitFast, keepsValue_refl, keepsValue_updated, and_self]

theorem storeKeeps_commitSlow (r : RecSlow) (s : State) : StoreKeeps s.store (commitSlow r s).store := by
  simp only [StoreKeeps, commitSlow, keepsValue_refl, keepsValue_updated, and_self]

theorem storeKeeps_commitWw (r : RecWw) (s : State) : StoreKeeps s.store (commitWw r s).store := by
  simp only [StoreKeeps, commitWw, keepsValue_refl, keepsValue_updated, and_self]

theorem storeKeeps_commitTime (r : RecTime) (s : State) : StoreKeeps s.store (commitTime r s).store := by
  simp only [StoreKeeps, commitTime, keepsValue_refl, keepsValue_updated, and_self]

theorem storeKeeps_commitMode (r : RecMode) (s : State) : StoreKeeps s.store (commitMode r s).store := by
  simp only [StoreKeeps, commitMode, keepsValue_refl, keepsValue_updated, and_self]

theorem storeKeeps_commitErr (r : RecErr) (s : State) : StoreKeeps s.store (commitErr r s).store := by
  simp only [StoreKeeps, commitErr, keepsValue_refl, keepsValue_updated, and_self]

namespace OpFrame

variable {s u : State}

protected theorem refl (s : State) : OpFrame s s where
  cfg := rfl
  now := le_rfl
  wlog := ⟨[], (List.append_nil _).symm⟩
  dlog := ⟨[], (List.append_nil _).symm⟩
  lineOut := ⟨[], (List.append_nil _).symm⟩
  stopped := id
  stats := .inl rfl
  store := storeKeeps_refl _

/-- An event of the worker. -/
theorem event (e : Event) (s : State) : OpFrame s (raiseW e s) := { OpFrame.refl s with wlog := ⟨[e], rfl⟩ }

/-- A counter other than `rx_crc`. -/
theorem counted {c : Counter} (hc : c ≠ .rxCrc) (s : State) : OpFrame s (count c s) :=
  { OpFrame.refl s with stats := .inr ⟨c, hc, rfl⟩ }

/-- An event of the worker and its counter (R290). -/
theorem countedEvent (e : Event) {c : Counter} (hc : c ≠ .rxCrc) (s : State) : OpFrame s (count c (raiseW e s)) :=
  { event e s with stats := .inr ⟨c, hc, rfl⟩ }

theorem macCheck (ok : Bool) (k : MacCause) (v : Byte) (s : State) : OpFrame s (macCheck ok k v s) := by
  obtain he | he := macCheck_cases ok k v s
  · rw [he]; exact .refl s
  · rw [he]; exact countedEvent _ (by decide) s

theorem invokeIfOwn (h : OpFrame s u) : OpFrame s (invokeIfOwn u) := by
  cases ho : ownBus u with
  | true => rw [invokeIfOwn_of_own ho]; exact { h with }
  | false => rw [invokeIfOwn_of_other ho]; exact h

theorem appendRx (b : Byte) (s : State) : OpFrame s (appendRx b s) := by
  obtain ⟨-, he⟩ | ⟨-, -, he⟩ | ⟨-, -, he⟩ := appendRx_cases b s
  · rw [he]; exact { OpFrame.refl s with }
  · rw [he]; exact .refl s
  · rw [he]; exact { event .framerOverflow s with }

theorem writeFrom (h : OpFrame s u) (t : Telegram) (i : Nat) : OpFrame s (writeFrom t i u) := by
  obtain ⟨b, -, he⟩ | ⟨-, he⟩ := writeFrom_cases t i u
  · rw [he]; exact { h with }
  · rw [he]; exact { h with }

theorem applyFilter (ok : Bool) (f : FilteredField) (v : Int) (s : State) : OpFrame s (applyFilter ok f v s) := by
  obtain ⟨a, he⟩ := applyFilter_eq ok f v s
  rw [he]; exact { OpFrame.refl s with dlog := ⟨a, rfl⟩ }

theorem stopWorker (h : OpFrame s u) : OpFrame s (stopWorker u) := { h with stopped := fun _ => rfl }

theorem writeFails (h : OpFrame s u) (hw : u.wlog = s.wlog) (e : Event) : OpFrame s (writeFails e u) :=
  { h with wlog := ⟨[e], by rw [writeFails_wlog, hw]⟩ }

end OpFrame

theorem execMacAck_frame {s u : State} (h : execMacAck s = .next u) : OpFrame s u := by
  cases h
  exact .invokeIfOwn { OpFrame.macCheck _ _ _ s with }

theorem execMacAssign_frame {s u : State} {id : DevId} (h : execMacAssign id s = .next u) : OpFrame s u := by
  obtain ⟨v, hv, hu⟩ := execMacAssign_cases h
  have hf : OpFrame s v := by
    obtain rfl | ⟨e, rfl⟩ := hv
    · exact .refl v
    · exact .countedEvent e (by decide) s
  obtain ⟨-, rfl⟩ | rfl := hu
  · exact { hf with }
  · exact { hf with }

theorem execDataReadresp_frame {s u : State} {t : Telegram} {m : Bool} (h : execDataReadresp t m s = .next u) :
    OpFrame s u := by
  obtain ⟨-, h⟩ := need_eq_next.mp h
  split at h <;> cases h
  · exact { OpFrame.invokeIfOwn (u := setBs .assigned s) { OpFrame.refl s with } with }
  · exact { OpFrame.countedEvent (.rxFormat (.readHeaderMismatch s.arb.rdexp) (headerOf t)) (c := .rxFormat) (by decide) s with }

theorem execTxPull_frame {s u : State} (h : execTxPull s = .next u) : OpFrame s u := by
  obtain rfl | ⟨p, q, -, -, ⟨-, rfl⟩ | rfl⟩ := execTxPull_cases h
  · exact .refl u
  · exact { OpFrame.refl s with }
  · exact { OpFrame.event (.txBadPacket p.length) s with }

theorem execTxWrite_frame {s u : State} {t : Telegram} (h : execTxWrite t s = .next u) : OpFrame s u := by
  obtain ⟨v, l, d, rfl, hu⟩ := execTxWrite_cases h
  have hv : OpFrame s { s with line := l, draws := d } := { OpFrame.refl s with }
  obtain rfl | ⟨e, rfl⟩ | rfl | ⟨i, rfl⟩ | ⟨i, -, rfl⟩ := hu
  · exact hv.stopWorker
  · exact hv.writeFails rfl e
  · exact { hv with }
  · exact hv.writeFrom t i
  · exact { hv with }

theorem execTxResult_frame {s u : State} {ok : Bool} (h : execTxResult ok s = .next u) : OpFrame s u := by
  obtain rfl | ⟨-, rfl⟩ | ⟨-, rfl⟩ := execTxResult_cases h
  · exact { OpFrame.refl s with }
  · exact { OpFrame.countedEvent (.txDropped (headerOf (txTelegram s))) (c := .txFail) (by decide) s with }
  · exact { OpFrame.refl s with }

theorem execTxState_frame {s u : State} {hdr : Header} (h : execTxState hdr s = .next u) : OpFrame s u := by
  obtain ⟨x, rfl⟩ | rfl | rfl := execTxState_cases h
  · exact { OpFrame.refl s with }
  · exact { OpFrame.refl s with }
  · exact { OpFrame.refl s with }

theorem execTxBudget_frame {s u : State} (h : execTxBudget s = .next u) : OpFrame s u := by
  obtain ⟨e, rfl⟩ | rfl := execTxBudget_cases h
  · exact { OpFrame.event e s with }
  · exact { OpFrame.refl s with }

theorem execDecRecv_frame {s u : State} (h : execDecRecv s = .next u) : OpFrame s u := by
  obtain rfl | ⟨p, q, -, rfl | ⟨-, rfl⟩⟩ := execDecRecv_cases h
  · exact .refl u
  · exact { OpFrame.refl s with }
  · exact { OpFrame.refl s with }

theorem execDecUbaSlow_frame {s u : State} {t : Telegram} (h : execDecUbaSlow t s = .next u) : OpFrame s u := by
  obtain ⟨r, b, a, rfl, -⟩ := execDecUbaSlow_cases h
  exact { OpFrame.refl s with dlog := ⟨a, rfl⟩, store := storeKeeps_commitSlow r s }

/-- Every operation, of either agent, keeps the frame. -/
theorem exec_frame {i : Instr} {s u : State} (h : exec i s = .next u) : OpFrame s u := by
  cases i with
  | rxEsc | rxMark | rxBadesc | rxBreak | rxBreak0 | rxBadmark | rxTmo | tgMac | txInvoke | cksum | fltPass =>
    cases h; exact { OpFrame.refl s with }
  | rxData | rxLitff => cases h; exact { OpFrame.appendRx _ s with }
  | txwByte b => cases h; exact { OpFrame.refl s with lineOut := ⟨_, rfl⟩ }
  | txwBreak =>
    cases h
    exact { OpFrame.refl s with lineOut := ⟨[.setParity .mark, .write 0x00 .mark, .setParity .normal], by simp [lineWrite]⟩ }
  | tgLong t => cases h; exact { OpFrame.counted (c := .rxTotal) (by decide) s with }
  | tgShort t => cases h; exact .countedEvent _ (by decide) s
  | macAck => exact execMacAck_frame h
  | macRel v => cases h; exact { OpFrame.macCheck _ .releaseWithoutAssign v s with }
  | macAssign id => exact execMacAssign_frame h
  | macRsvd v => cases h; exact .countedEvent _ (by decide) s
  | dataEvent | dataPreempt | dataClassify | dataReadreq | dataWrite | dataBcast | txStamp | decDispatch =>
    obtain ⟨-, h⟩ := need_eq_next.mp h
    cases h; exact { OpFrame.refl s with }
  | dataAddr | dataUnassigned | dataWrongsender | dataInwrote =>
    obtain ⟨-, h⟩ := need_eq_next.mp h
    cases h; exact .countedEvent _ (by decide) s
  | dataReadresp => exact execDataReadresp_frame h
  | dataAccept t =>
    obtain ⟨-, rfl⟩ := execDataAccept_eq_next h
    exact { OpFrame.counted (c := .rxSuccess) (by decide) s with }
  | txPull => exact execTxPull_frame h
  | txBudget => exact execTxBudget_frame h
  | txAttempt => cases h; exact { OpFrame.counted (c := .txTotal) (by decide) s with }
  | txWrite => exact execTxWrite_frame h
  | txResult => exact execTxResult_frame h
  | txState => exact execTxState_frame h
  | txRelease part => cases part <;> cases h <;> exact { OpFrame.refl s with }
  | decRecv => exact execDecRecv_frame h
  | decGuard t n =>
    obtain rfl | ⟨-, rfl⟩ := execDecGuard_cases h
    · exact { OpFrame.refl s with }
    · exact { OpFrame.refl s with }
  | decUbaFast t =>
    obtain ⟨-, h⟩ := need_eq_next.mp h
    cases h; exact { OpFrame.refl s with store := storeKeeps_commitFast _ s }
  | decUbaSlow t => exact execDecUbaSlow_frame h
  | decUbaWw t =>
    obtain ⟨-, h⟩ := need_eq_next.mp h
    cases h; exact { OpFrame.refl s with store := storeKeeps_commitWw _ s }
  | decRcTime t =>
    obtain ⟨-, h⟩ := need_eq_next.mp h
    cases h; exact { OpFrame.refl s with store := storeKeeps_commitTime _ s }
  | decRcMode t =>
    obtain ⟨-, h⟩ := need_eq_next.mp h
    cases h; exact { OpFrame.refl s with store := storeKeeps_commitMode _ s }
  | decUbaErr t =>
    obtain ⟨-, h⟩ := need_eq_next.mp h
    cases h; exact { OpFrame.refl s with store := storeKeeps_commitErr _ s }
  | decPlus t =>
    obtain ⟨c, rfl⟩ | ⟨r, -, rfl⟩ := execDecPlus_cases h
    · exact { OpFrame.refl s with }
    · exact { OpFrame.refl s with }
  | decUndecoded t c => cases h; exact { OpFrame.refl s with dlog := ⟨_, rfl⟩ }
  | fltOptime | fltStarts | fltExhaust => cases h; exact .applyFilter _ _ _ s
  | sysStop => cases h; exact (OpFrame.refl s).stopWorker

/-- Every step but an engine start keeps the frame. -/
theorem step_frame {s u : State} (h : step s = .next u) (hr : (takeTurn s).1 ≠ .restart) : OpFrame s u := by
  obtain ⟨ts, d, hv⟩ := takeTurn_snd_eq s
  have hf : OpFrame s { s with turns := ts, draws := d } := { OpFrame.refl s with }
  obtain ⟨-, h⟩ := step_eq_next.mp h
  rw [hv] at h
  cases ht : (takeTurn s).1 with
  | worker =>
    rw [ht] at h
    obtain ⟨-, rfl⟩ | ⟨-, i, -, h⟩ := workerTurn_eq_next.mp h
    · exact hf
    · obtain ⟨cs, l, d', hw⟩ := workerFetch_snd_eq { s with turns := ts, draws := d }
      rw [hw] at h
      exact { exec_frame h with }
  | decoder =>
    rw [ht] at h
    obtain ⟨i, -, h⟩ := runFetched_eq_next.mp h
    obtain ⟨cs, hd⟩ := decoderFetch_snd_eq { s with turns := ts, draws := d }
    rw [hd] at h
    exact { exec_frame h with }
  | advance n => rw [ht] at h; cases h; exact { hf with now := Nat.le_add_right _ _ }
  | produce p =>
    rw [ht] at h
    obtain ⟨-, rfl⟩ := runTurn_produce_eq_next h
    exact { hf with }
  | stopInput b => rw [ht] at h; cases h; exact { hf with }
  | restart => exact absurd ht hr

/-! ### The statements -/

/-- One count of a counter other than `rx_crc` (R36, R180). -/
theorem statsInc_monotone {c : Counter} (hc : c ≠ .rxCrc) (a : Stats) :
    StatsLe a (statsInc c a) ∧ (statsInc c a).macErr ≤ a.macErr + 1 ∧ (statsInc c a).rxTotal ≤ a.rxTotal + 1 ∧
      (statsInc c a).rxSuccess ≤ a.rxSuccess + 1 ∧ (statsInc c a).rxShort ≤ a.rxShort + 1 ∧
      (statsInc c a).rxSender ≤ a.rxSender + 1 ∧ (statsInc c a).rxFormat ≤ a.rxFormat + 1 ∧
      (statsInc c a).rxCrc = a.rxCrc ∧ (statsInc c a).txTotal ≤ a.txTotal + 1 ∧
      (statsInc c a).txFail ≤ a.txFail + 1 := by
  cases c with
  | rxCrc => exact absurd rfl hc
  | _ => simp [StatsLe, statsInc]

/-- Settles O57: a step counts nothing, or one counter other than `rx_crc`. -/
theorem countersMonotone : Obligations.CountersMonotone := by
  intro s u h hr
  obtain he | ⟨c, hc, he⟩ := (step_frame h hr).stats
  · rw [he]; simp [StatsLe]
  · rw [he]; exact statsInc_monotone hc s.stats

/-- Settles O58: a commit updates fields and never clears one (R70). -/
theorem validBitsStay : Obligations.ValidBitsStay := fun _ _ h hr => (step_frame h hr).store

/-- Settles O59: an engine start keeps the configuration, the time and the records; every other step keeps the frame. -/
theorem recordsGrow : Obligations.RecordsGrow := by
  intro s u h
  by_cases hr : (takeTurn s).1 = .restart
  · obtain ⟨-, h⟩ := step_eq_next.mp h
    obtain ⟨ts, d, hv⟩ := takeTurn_snd_eq s
    rw [hr, hv] at h
    cases h
    have same {α : Type} (l : List α) : ∃ a, l = l ++ a := ⟨[], (List.append_nil l).symm⟩
    exact ⟨rfl, le_rfl, same _, same _, same _, fun hn => absurd hr hn⟩
  · have hf := step_frame h hr
    exact ⟨hf.cfg, hf.now, hf.wlog, hf.dlog, hf.lineOut, fun _ => hf.stopped⟩

end Sys2Proof.Machine
end

section
/-! The state after reset (10_state.md R56; 70_reset_and_hazards.md R330, R331). -/

namespace Sys2Proof.Machine

/-- Settles O50: each value is the one `State.reset` is written with. -/
theorem resetValues : Obligations.ResetValues :=
  ⟨rfl, rfl, rfl, rfl, rfl, rfl, rfl, rfl, rfl, rfl, rfl, rfl, rfl, rfl, rfl⟩

/-- An engine start under an admitted configuration leads to the invariant, whatever the time it keeps. -/
theorem restart_inv {s : State} (hc : configOk s.cfg = true) : Inv (restart s) where
  config := hc
  mem := reset_memory_wf
  inqData := rfl
  releasedUnpolled := fun _ => rfl
  txLength := fun h => nomatch h
  retries := ⟨Nat.zero_le _, fun _ => rfl⟩
  parity := rfl
  times := ⟨Nat.zero_le _, fun _ h => nomatch h⟩
  overflow := fun h => nomatch h
  framerAtRest := fun h => absurd rfl h
  worker := rfl
  decoder := rfl
  stopped := fun h => nomatch h
  rxSum := rfl
  rxCrc := rfl
  txSum := Nat.le_refl 0
  store := rfl

/-- Settles O54: the state after reset is what an engine start leads to, and the default configuration is admitted. -/
theorem invAtReset : Obligations.InvAtReset :=
  have admitted : configOk State.reset.cfg = true := by decide
  restart_inv (s := State.reset) admitted

end Sys2Proof.Machine
end

section
/-! The worker's calls (45_arithmetic_and_control.md R276) as an inductive predicate, and the invariant as it stands while an
operation of a call runs. -/

namespace Sys2Proof.Machine

/-! ### The places of a call -/

/-- What waits for `WriteTelegram` to return: an attempt, where a telegram is pending, or a release reply. -/
inductive WriteCaller (txpend : Bool) : List Ctl → Prop
  | attempt {hdr : Header} (pend : txpend = true) : WriteCaller txpend [.attempted hdr]
  | release : WriteCaller txpend [.op (.txRelease .finish)]

/-- The stacks of pending calls, with what holds of the state at each: `wctlOk` as an inductive predicate. -/
inductive WorkerPlace (s : State) : List Ctl → Prop
  | top (idle : s.tx.txp = .idle) : WorkerPlace s []
  | telegram {t : Telegram} (idle : s.tx.txp = .idle) (packet : packetOk t = true) : WorkerPlace s [.telegram t]
  | mac {v : Byte} (idle : s.tx.txp = .idle) : WorkerPlace s [.mac v]
  | long {t : Telegram} (idle : s.tx.txp = .idle) (two : 2 ≤ t.length) (fit : t.length ≤ maxTelegram) :
      WorkerPlace s [.long t]
  | event {t : Telegram} (idle : s.tx.txp = .idle) (data : isDataLen t = true) :
      WorkerPlace s [.event t (hdrMatch s.arb t)]
  | case {t : Telegram} (idle : s.tx.txp = .idle) (data : isDataLen t = true) (free : s.arb.bs = .released)
      (master : byteAt t 0 = s.cfg.masterId) : WorkerPlace s [.case t false]
  | dest {t : Telegram} (idle : s.tx.txp = .idle) (data : isDataLen t = true) :
      WorkerPlace s [.dest t, .op (.dataAccept t)]
  | accept {t : Telegram} (idle : s.tx.txp = .idle) (data : isDataLen t = true) : WorkerPlace s [.op (.dataAccept t)]
  | acceptInvoke {t : Telegram} (idle : s.tx.txp = .idle) (data : isDataLen t = true) (holds : holdsBus s = true) :
      WorkerPlace s [.op (.dataAccept t), .op .txInvoke]
  | invoke (idle : s.tx.txp = .idle) (holds : holdsBus s = true) : WorkerPlace s [.op .txInvoke]
  | pull (idle : s.tx.txp = .idle) (holds : holdsBus s = true) : WorkerPlace s [.op .txPull, .pulled]
  | pulled (idle : s.tx.txp = .idle) (holds : holdsBus s = true) : WorkerPlace s [.pulled]
  | stamped (idle : s.tx.txp = .idle) (holds : holdsBus s = true) (pend : s.tx.txpend = true) : WorkerPlace s [.stamped]
  | budgeted (idle : s.tx.txp = .idle) (holds : holdsBus s = true) (pend : s.tx.txpend = true) : WorkerPlace s [.budgeted]
  | write {t : Telegram} {k : List Ctl} (packet : packetOk t = true) (phase : phaseFits s.tx.txp t = true)
      (holds : holdsBus s = true) (caller : WriteCaller s.tx.txpend k) : WorkerPlace s (.write t :: k)
  | writeByte {b : Byte} {t : Telegram} {k : List Ctl} (packet : packetOk t = true) (phase : phaseFits s.tx.txp t = true)
      (holds : holdsBus s = true) (caller : WriteCaller s.tx.txpend k) : WorkerPlace s (.op (.txwByte b) :: .write t :: k)
  | writeBreak {t : Telegram} {k : List Ctl} (packet : packetOk t = true) (phase : phaseFits s.tx.txp t = true)
      (holds : holdsBus s = true) (caller : WriteCaller s.tx.txpend k) : WorkerPlace s (.op .txwBreak :: .write t :: k)
  | attempted {hdr : Header} (holds : holdsBus s = true) (pend : s.tx.txpend = true) : WorkerPlace s [.attempted hdr]
  | state {hdr : Header} (holds : holdsBus s = true) : WorkerPlace s [.op (.txState hdr)]
  | finish (holds : holdsBus s = true) : WorkerPlace s [.op (.txRelease .finish)]

theorem writeCaller_iff {p : Bool} {k : List Ctl} :
    WriteCaller p k ↔ writeCallerOk k = true ∧ (k = [.op (.txRelease .finish)] ∨ p = true) := by
  constructor
  · intro h
    cases h with
    | attempt pend => exact ⟨rfl, .inr pend⟩
    | release => exact ⟨rfl, .inl rfl⟩
  · rintro ⟨caller, pend⟩
    unfold writeCallerOk at caller
    split at caller
    · exact .attempt (pend.resolve_left (by simp))
    · exact .release
    · cases caller

theorem wctlOk_iff (s : State) : wctlOk s = true ↔ WorkerPlace s s.wctl := by
  unfold wctlOk
  generalize s.wctl = cs
  constructor
  · intro h
    split at h <;>
      try simp only [Bool.and_eq_true, Bool.or_eq_true, beq_iff_eq, decide_eq_true_eq, Bool.not_eq_true', and_assoc,
        Bool.false_eq_true] at h
    case h_1 => exact .top h
    case h_2 => exact .telegram h.1 h.2
    case h_3 => exact .mac h
    case h_4 =>
      obtain ⟨idle, two, fit⟩ := h
      exact .long idle two fit
    case h_5 =>
      obtain ⟨idle, data, rfl⟩ := h
      exact .event idle data
    case h_6 =>
      obtain ⟨idle, data, rfl, free, master⟩ := h
      exact .case idle data free master
    case h_7 =>
      obtain ⟨idle, data, rfl⟩ := h
      exact .dest idle data
    case h_8 => exact .accept h.1 h.2
    case h_9 =>
      obtain ⟨idle, data, holds⟩ := h
      exact .acceptInvoke idle data holds
    case h_10 => exact .invoke h.1 h.2
    case h_11 => exact .pull h.1 h.2
    case h_12 => exact .pulled h.1 h.2
    case h_13 =>
      obtain ⟨idle, holds, pend⟩ := h
      exact .stamped idle holds pend
    case h_14 =>
      obtain ⟨idle, holds, pend⟩ := h
      exact .budgeted idle holds pend
    case h_15 =>
      obtain ⟨packet, phase, caller, holds, pend⟩ := h
      exact .write packet phase holds (writeCaller_iff.mpr ⟨caller, pend⟩)
    case h_16 =>
      obtain ⟨packet, phase, caller, holds, pend⟩ := h
      exact .writeByte packet phase holds (writeCaller_iff.mpr ⟨caller, pend⟩)
    case h_17 =>
      obtain ⟨packet, phase, caller, holds, pend⟩ := h
      exact .writeBreak packet phase holds (writeCaller_iff.mpr ⟨caller, pend⟩)
    case h_18 => exact .attempted h.1 h.2
    case h_19 => exact .state h
    case h_20 => exact .finish h
  · intro h
    cases h <;> simp_all [writeCaller_iff]

/-! ### Counts whose outcome is still to come -/

/-- R37, with `n` telegrams counted whose outcome is still to come. -/
def RxOpen (st : Stats) (n : Nat) : Prop := st.rxTotal = st.rxSuccess + st.rxShort + st.rxSender + st.rxFormat + n

/-- Every dropped telegram took six attempts (R206), with `n` attempts counted whose result is still to come. -/
def TxOpen (st : Stats) (retries n : Nat) : Prop := 6 * st.txFail + retries + n ≤ st.txTotal

section

variable {st : Stats} {n retries : Nat}

theorem RxOpen.total (h : RxOpen st n) : RxOpen (statsInc .rxTotal st) (n + 1) := by
  simp only [RxOpen, statsInc] at h ⊢; omega

theorem RxOpen.success (h : RxOpen st (n + 1)) : RxOpen (statsInc .rxSuccess st) n := by
  simp only [RxOpen, statsInc] at h ⊢; omega

theorem RxOpen.short (h : RxOpen st (n + 1)) : RxOpen (statsInc .rxShort st) n := by
  simp only [RxOpen, statsInc] at h ⊢; omega

theorem RxOpen.sender (h : RxOpen st (n + 1)) : RxOpen (statsInc .rxSender st) n := by
  simp only [RxOpen, statsInc] at h ⊢; omega

theorem RxOpen.format (h : RxOpen st (n + 1)) : RxOpen (statsInc .rxFormat st) n := by
  simp only [RxOpen, statsInc] at h ⊢; omega

theorem TxOpen.total (h : TxOpen st retries n) : TxOpen (statsInc .txTotal st) retries (n + 1) := by
  simp only [TxOpen, statsInc] at h ⊢; omega

/-- The sixth attempt's failure drops the telegram. -/
theorem TxOpen.fail (h : TxOpen st retries (n + 1)) (last : maxRetries < retries + 1) :
    TxOpen (statsInc .txFail st) 0 n := by
  simp only [TxOpen, statsInc, maxRetries] at h last ⊢; omega

/-- A failure before the sixth is counted in `RETRIES`. -/
theorem TxOpen.retry (h : TxOpen st retries (n + 1)) : TxOpen st (retries + 1) n := by
  simp only [TxOpen] at h ⊢; omega

/-- An attempt that succeeds, or is abandoned, leaves slack. -/
theorem TxOpen.mono {r m : Nat} (h : TxOpen st retries n) (hr : r ≤ retries) (hm : m ≤ n) : TxOpen st r m := by
  simp only [TxOpen] at h ⊢; omega

end

/-! ### The invariant inside a call -/

/-- The invariant inside a call, but for the place: `r` telegrams and `n` attempts are counted whose outcome is still to
come. An update that leaves these fields as they are keeps it by unfolding alone, as `{ h with }`; the same holds of `Inv`. -/
structure InCall (r n : Nat) (s : State) : Prop where
  config : configOk s.cfg = true
  mem : Memory.wf s = true
  inqData : s.inq.all isDataLen = true
  releasedUnpolled : s.arb.bs = .released → s.arb.polled = none
  txLength : s.tx.txpend = true → minDataLen ≤ s.tx.txlen
  retries : s.tx.retries ≤ maxRetries ∧ (s.tx.txpend = false → s.tx.retries = 0)
  parity : s.parity = .normal
  times : s.tx.acqTime ≤ s.now ∧ ∀ h, s.frm.heartbeat = some h → h ≤ s.now
  atRest : s.frm.fs = .idle ∧ s.frm.rxlen = 0 ∧ s.frm.rxovf = false
  decoder : dctlOk s = true
  running : s.stopped = false
  rx : RxOpen s.stats r
  rxCrc : s.stats.rxCrc = 0
  tx : TxOpen s.stats s.tx.retries n
  store : storeOk s.cfg s.store = true

theorem Inv.inCall {s : State} (h : Inv s) (running : s.stopped = false) (inside : s.wctl ≠ []) :
    InCall (rxPending s.wctl) (txPending s.wctl) s :=
  { h with atRest := h.framerAtRest inside, running := running, rx := h.rxSum, tx := h.txSum }

/-- Back to the invariant, where the pending calls are `cs`. -/
theorem Inv.of_inCall {s : State} {cs : List Ctl} (hw : s.wctl = cs) (h : InCall (rxPending cs) (txPending cs) s)
    (place : WorkerPlace s cs) : Inv s := by
  subst hw
  exact { h with
    overflow := fun ho => by simp [h.atRest] at ho
    framerAtRest := fun _ => h.atRest
    worker := (wctlOk_iff s).mpr place
    stopped := fun hs => by simp [h.running] at hs
    rxSum := h.rx
    txSum := h.tx }

theorem callW_wctl_eq {s : State} {cs k : List Ctl} (hw : s.wctl = k) : (callW cs s).wctl = cs ++ k := congrArg _ hw

theorem packetOk_of_isDataLen {t : Telegram} (h : isDataLen t = true) : packetOk t = true := by
  rw [isDataLen_iff] at h
  rw [packetOk_iff]
  omega

/-! ### The arbiter's operations -/

namespace InCall

variable {s u : State} {r n : Nat}

theorem setBs (h : InCall r n s) {b : BusState} (hb : b ≠ .released) : InCall r n (setBs b s) :=
  { h with releasedUnpolled := fun hr => absurd hr hb }

theorem releaseBus (h : InCall r n s) : InCall r n (releaseBus s) := { h with releasedUnpolled := fun _ => rfl }

theorem expectRead (h : InCall r n s) (x : Header) : InCall r n (expectRead x s) :=
  { h with releasedUnpolled := fun hr => nomatch hr }

theorem assignBus (h : InCall r n s) (id : DevId) : InCall r n (assignBus id s) :=
  { h with releasedUnpolled := fun hr => nomatch hr }

theorem stampAcqTime (h : InCall r n s) : InCall r n (stampAcqTime s) := { h with times := ⟨le_rfl, h.times.2⟩ }

theorem macCheck (h : InCall r n s) (ok : Bool) (k : MacCause) (v : Byte) : InCall r n (macCheck ok k v s) := by
  obtain he | he := macCheck_cases ok k v s
  · rw [he]; exact h
  · rw [he]; exact { h with }

/-- `DATA.ACCEPT` closes a telegram; what it pushes is 6 to 32 bytes (R111). -/
theorem accept (h : InCall (r + 1) n s) {t : Telegram} (data : isDataLen t = true) :
    InCall r n (pushIn t (count .rxSuccess s)) :=
  { h with
    mem := pushIn_memory_wf t _ (packetOk_of_isDataLen data) h.mem
    inqData := List.all_eq_true.mpr (qPush_all (List.all_eq_true.mp h.inqData) data)
    rx := h.rx.success }

end InCall

section

variable {s u : State}

/-- An invocation is called where the engine holds the bus (R161, R177, R184). -/
theorem inv_invokeIfOwn (hw : s.wctl = []) (h : InCall 0 0 s) (idle : s.tx.txp = .idle)
    (assigned : s.arb.bs = .assigned) : Inv (invokeIfOwn s) := by
  cases ho : ownBus s with
  | true =>
    have holds : holdsBus s = true := by simp [holdsBus, assigned, ho]
    rw [invokeIfOwn_of_own ho]
    exact .of_inCall (callW_wctl_eq hw) { h with } (.invoke idle holds)
  | false =>
    rw [invokeIfOwn_of_other ho]
    exact .of_inCall hw h (.top idle)

theorem inv_telegram {t : Telegram} (h : InCall 0 0 s) (idle : s.tx.txp = .idle) (packet : packetOk t = true)
    (hu : runFetched (decode s.cfg .telegram t, { s with wctl := [] }) = .next u) : Inv u := by
  obtain ⟨one, fit⟩ := packetOk_iff.mp packet
  match t, one with
  | [v], _ => cases hu; exact .of_inCall rfl { h with } (.mac idle)
  | a :: b :: t, _ =>
    have hd : decode s.cfg .telegram (a :: b :: t) = .ok (.tgLong (a :: b :: t)) := if_pos fit
    rw [hd] at hu
    cases hu
    exact .of_inCall rfl { h with rx := h.rx.total } (.long idle (by simp) fit)

theorem inv_macAck (hw : s.wctl = []) (h : InCall 0 0 s) (idle : s.tx.txp = .idle) (hu : execMacAck s = .next u) :
    Inv u := by
  cases hu
  have hm := (h.macCheck (s.arb.bs == .wrote) .ackWithoutWrite macAckByte).setBs (b := .assigned) (by decide)
  exact inv_invokeIfOwn (by simp [hw]) hm (by simpa using idle) (by simp)

theorem inv_macRel {v : Byte} (hw : s.wctl = []) (h : InCall 0 0 s) (idle : s.tx.txp = .idle)
    (hu : execMacRel v s = .next u) : Inv u := by
  cases hu
  exact .of_inCall (cs := []) (by simp [hw]) (h.macCheck _ _ _).releaseBus (.top (by simpa using idle))

theorem inv_macAssign {id : DevId} (hw : s.wctl = []) (h : InCall 0 0 s) (idle : s.tx.txp = .idle)
    (hu : execMacAssign id s = .next u) : Inv u := by
  obtain ⟨v, hv, hu⟩ := execMacAssign_cases hu
  obtain ⟨hvw, hvi, hvc⟩ : v.wctl = [] ∧ v.tx.txp = .idle ∧ InCall 0 0 v := by
    obtain rfl | ⟨e, rfl⟩ := hv
    · exact ⟨hw, idle, h⟩
    · exact ⟨hw, idle, { h with }⟩
  obtain ⟨own, rfl⟩ | rfl := hu
  · exact .of_inCall (callW_wctl_eq hvw) { (hvc.assignBus id).stampAcqTime with }
      (.invoke hvi own)
  · exact .of_inCall hvw (hvc.assignBus id) (.top hvi)

/-- The control byte's event (R160). -/
theorem inv_mac {v : Byte} (hw : s.wctl = []) (h : InCall 0 0 s) (idle : s.tx.txp = .idle)
    (hu : exec (decodeMac v) s = .next u) : Inv u := by
  unfold decodeMac at hu
  split at hu
  · exact inv_macAck hw h idle hu
  · split at hu
    · exact inv_macRel hw h idle hu
    · split at hu
      · exact inv_macAssign hw h idle hu
      · cases hu
        exact .of_inCall hw { h with } (.top idle)

/-- A telegram of 2 to 32 bytes is short or data (R165). -/
theorem inv_long {t : Telegram} (hw : s.wctl = []) (h : InCall 1 0 s) (idle : s.tx.txp = .idle) (two : 2 ≤ t.length)
    (fit : t.length ≤ maxTelegram) (hu : runFetched (decode s.cfg .long t, s) = .next u) : Inv u := by
  have hd : decode s.cfg .long t = .ok (if t.length < minDataLen then .tgShort t else .dataEvent t) := if_pos ⟨two, fit⟩
  rw [hd, runFetched_ok] at hu
  by_cases short : t.length < minDataLen
  · rw [if_pos short] at hu
    cases hu
    exact .of_inCall hw { h with rx := h.rx.short } (.top idle)
  · rw [if_neg short] at hu
    obtain ⟨six, hu⟩ := need_eq_next.mp hu
    cases hu
    exact .of_inCall (callW_wctl_eq hw) { h with } (.event idle (isDataLen_iff.mpr ⟨six, fit⟩))

theorem inv_dataReadresp {t : Telegram} {m : Bool} (hw : s.wctl = []) (h : InCall 1 0 s) (idle : s.tx.txp = .idle)
    (data : isDataLen t = true) (hu : execDataReadresp t m s = .next u) : Inv u := by
  obtain ⟨-, hu⟩ := need_eq_next.mp hu
  have ha := h.setBs (b := .assigned) (by decide)
  cases m with
  | false =>
    cases hu
    exact .of_inCall hw { ha with rx := h.rx.format } (.top idle)
  | true =>
    cases hu
    cases ho : ownBus (setBs .assigned s) with
    | true =>
      have holds : holdsBus (setBs .assigned s) = true := by simp [holdsBus, ho]
      rw [invokeIfOwn_of_own ho]
      exact .of_inCall (callW_wctl_eq (callW_wctl_eq hw)) { ha with } (.acceptInvoke idle data holds)
    | false =>
      rw [invokeIfOwn_of_other ho]
      exact .of_inCall (callW_wctl_eq hw) { ha with } (.accept idle data)

/-- The case on `BS` (R167): dropped, a read response, or accepted. -/
theorem inv_decodeCase {t : Telegram} {b : BusState} {p : Option DevId} {m : Bool} (hw : s.wctl = []) (h : InCall 1 0 s)
    (idle : s.tx.txp = .idle) (data : isDataLen t = true) (hu : exec (decodeCase s.cfg b p m t) s = .next u) : Inv u := by
  have sender (e : Event) : Inv (count .rxSender (raiseW e s)) :=
    .of_inCall hw { h with rx := h.rx.sender } (.top idle)
  have classify : Inv (callW [.dest t, .op (.dataAccept t)] s) :=
    .of_inCall (callW_wctl_eq hw) { h with } (.dest idle data)
  unfold decodeCase at hu
  cases b with
  | released =>
    dsimp only at hu
    split at hu <;> obtain ⟨-, hu⟩ := need_eq_next.mp hu <;> cases hu
    · exact sender _
    · exact classify
  | assigned =>
    dsimp only at hu
    split at hu <;> obtain ⟨-, hu⟩ := need_eq_next.mp hu <;> cases hu
    · exact sender _
    · exact classify
  | read => exact inv_dataReadresp hw h idle data hu
  | wrote =>
    obtain ⟨-, hu⟩ := need_eq_next.mp hu
    cases hu
    exact sender _

/-- The order of the checks on a data telegram (R167). -/
theorem inv_decodeEvent {t : Telegram} {b : BusState} {p : Option DevId} {m : Bool} (hw : s.wctl = []) (h : InCall 1 0 s)
    (idle : s.tx.txp = .idle) (data : isDataLen t = true) (hu : exec (decodeEvent s.cfg b p m t) s = .next u) : Inv u := by
  unfold decodeEvent at hu
  split at hu
  · obtain ⟨-, hu⟩ := need_eq_next.mp hu
    cases hu
    exact .of_inCall hw { h with rx := h.rx.format } (.top idle)
  · split at hu
    · rename_i hm
      obtain ⟨-, hu⟩ := need_eq_next.mp hu
      cases hu
      exact .of_inCall (callW_wctl_eq hw) { h.releaseBus with } (.case idle data rfl hm.1)
    · exact inv_decodeCase hw h idle data hu

/-- The class of an accepted telegram, with its acceptance still to come (R173). -/
theorem inv_decodeDest {t : Telegram} (hw : s.wctl = [.op (.dataAccept t)]) (h : InCall 1 0 s) (idle : s.tx.txp = .idle)
    (data : isDataLen t = true) (hu : exec (decodeDest t) s = .next u) : Inv u := by
  unfold decodeDest at hu
  split at hu
  · obtain ⟨-, hu⟩ := need_eq_next.mp hu
    cases hu
    exact .of_inCall hw (h.expectRead _) (.accept idle data)
  · split at hu <;> obtain ⟨-, hu⟩ := need_eq_next.mp hu <;> cases hu
    · exact .of_inCall hw (h.setBs (by decide)) (.accept idle data)
    · exact .of_inCall hw h (.accept idle data)

/-! ### The Transmit Engine's operations -/

theorem inv_txPull (hw : s.wctl = [.pulled]) (h : InCall 0 0 s) (idle : s.tx.txp = .idle) (holds : holdsBus s = true)
    (hu : execTxPull s = .next u) : Inv u := by
  obtain rfl | ⟨p, q, empty, hq, hu⟩ := execTxPull_cases hu
  · exact .of_inCall hw h (.pulled idle holds)
  · have hm : Memory.wf { s with outq := q } = true := by
      have := popOutq_memory_wf s h.mem
      rwa [hq] at this
    obtain ⟨six, rfl⟩ | rfl := hu
    · obtain ⟨-, -, -, -, -, -, -, packets⟩ := (memory_wf_iff s).mp h.mem
      have hp : packetOk p = true := packets p (by simp [hq])
      refine .of_inCall hw { h with mem := ?_, txLength := ?_, retries := ?_, tx := ?_ } (.pulled idle holds)
      · exact loadTx_memory_wf p _ hp hm
      · exact fun _ => six
      · exact ⟨Nat.zero_le _, fun _ => rfl⟩
      · exact h.tx.mono (Nat.zero_le _) le_rfl
    · exact .of_inCall hw { h with mem := hm } (.pulled idle holds)

theorem inv_txStamp (hw : s.wctl = [.stamped]) (h : InCall 0 0 s) (idle : s.tx.txp = .idle) (holds : holdsBus s = true)
    (pend : s.tx.txpend = true) (hu : execTxStamp s = .next u) : Inv u := by
  obtain ⟨-, hu⟩ := need_eq_next.mp hu
  cases hu
  have hm : Memory.wf (setTxByte 0 s.cfg.ownId s) = true := setTxByte_memory_wf _ _ s h.mem
  exact .of_inCall hw { h with mem := setTxByte_memory_wf _ _ (computeChecksum _ (setTxByte 0 s.cfg.ownId s)) hm }
    (.stamped idle holds pend)

theorem inv_txBudget (hw : s.wctl = [.budgeted]) (h : InCall 0 0 s) (idle : s.tx.txp = .idle) (holds : holdsBus s = true)
    (pend : s.tx.txpend = true) (hu : execTxBudget s = .next u) : Inv u := by
  obtain ⟨e, rfl⟩ | rfl := execTxBudget_cases hu
  · exact .of_inCall hw { h with } (.budgeted idle holds pend)
  · exact .of_inCall hw { h with } (.budgeted idle holds pend)

/-- The telegram an attempt writes is the pending one, of 6 to 32 bytes (R33, R204). -/
theorem packetOk_txTelegram {r n : Nat} (h : InCall r n s) (pend : s.tx.txpend = true) : packetOk (txTelegram s) = true := by
  obtain ⟨-, hbuf, -, hlen, -⟩ := (memory_wf_iff s).mp h.mem
  have six := h.txLength pend
  rw [packetOk_iff, txTelegram, List.length_take, hbuf]
  simp only [minDataLen] at six
  omega

theorem inv_txAttempt {hdr : Header} (hw : s.wctl = [.attempted hdr]) (h : InCall 0 0 s) (idle : s.tx.txp = .idle)
    (holds : holdsBus s = true) (pend : s.tx.txpend = true) (hu : execTxAttempt s = .next u) : Inv u := by
  cases hu
  have phase : phaseFits s.tx.txp (txTelegram s) = true := by rw [idle]; rfl
  exact .of_inCall (callW_wctl_eq hw) { h with tx := h.tx.total }
    (.write (packetOk_txTelegram h pend) phase holds (.attempt pend))

theorem inv_txRelease (hw : s.wctl = []) (h : InCall 0 0 s) (idle : s.tx.txp = .idle) (holds : holdsBus s = true)
    (hu : execTxRelease .call s = .next u) : Inv u := by
  cases hu
  have phase : phaseFits s.tx.txp [s.cfg.ownId] = true := by rw [idle]; rfl
  exact .of_inCall (callW_wctl_eq hw) { h with }
    (.write rfl phase holds .release)

theorem WriteCaller.rxPending {p : Bool} {k : List Ctl} (caller : WriteCaller p k) : rxPending k = 0 := by
  cases caller <;> rfl

/-- A stop abandons the call (R312). An attempt it abandons has no result. -/
theorem inv_stopWorker {n : Nat} (h : InCall 0 n s) : Inv (stopWorker s) :=
  { h with
    overflow := fun ho => by simp [h.atRest] at ho
    framerAtRest := fun hn => absurd rfl hn
    worker := (wctlOk_iff _).mpr (.top rfl)
    stopped := fun _ => rfl
    rxSum := h.rx
    txSum := h.tx.mono le_rfl (Nat.zero_le _) }

/-- When `WriteTelegram` returns its caller goes on. -/
theorem WriteCaller.place {k : List Ctl} (caller : WriteCaller s.tx.txpend k) (holds : holdsBus s = true) : WorkerPlace s k := by
  cases caller with
  | attempt pend => exact .attempted holds pend
  | release => exact .finish holds

theorem inv_txWrite {t : Telegram} {k : List Ctl} (hw : s.wctl = k) (h : InCall (rxPending k) (txPending k) s)
    (packet : packetOk t = true) (holds : holdsBus s = true) (caller : WriteCaller s.tx.txpend k)
    (hu : execTxWrite t s = .next u) : Inv u := by
  obtain ⟨v, l, d, rfl, hu⟩ := execTxWrite_cases hu
  obtain rfl | ⟨e, rfl⟩ | rfl | ⟨i, rfl⟩ | ⟨i, hi, rfl⟩ := hu
  · exact inv_stopWorker { h with rx := caller.rxPending ▸ h.rx }
  · exact .of_inCall hw { h with } (WriteCaller.place (s := writeFails e _) caller holds)
  · exact .of_inCall hw { h with } (WriteCaller.place (s := returnW true _) caller holds)
  · obtain ⟨b, hb, he⟩ | ⟨-, he⟩ := writeFrom_cases t i { s with line := l, draws := d }
    · have phase : phaseFits (.echo i) t = true := decide_eq_true (List.getElem?_eq_some_iff.mp hb).1
      rw [he]
      exact .of_inCall (callW_wctl_eq hw) { h with } (.writeByte packet phase holds caller)
    · rw [he]
      exact .of_inCall (callW_wctl_eq hw) { h with } (.writeBreak packet rfl holds caller)
  · have phase : phaseFits (.echo2 i) t = true := decide_eq_true hi
    exact .of_inCall (callW_wctl_eq hw) { h with } (.write packet phase holds caller)

theorem inv_txResult {ok : Bool} {hdr : Header} (hw : s.wctl = [.op (.txState hdr)]) (h : InCall 0 1 s)
    (holds : holdsBus s = true) (pend : s.tx.txpend = true) (hu : execTxResult ok s = .next u) : Inv u := by
  have hm := dropTx_memory_wf s h.mem
  obtain rfl | ⟨last, rfl⟩ | ⟨le, rfl⟩ := execTxResult_cases hu
  · refine .of_inCall hw { h with mem := hm, txLength := ?_, retries := ?_, tx := ?_ } (.state holds)
    · exact fun hp => nomatch hp
    · exact ⟨Nat.zero_le _, fun _ => rfl⟩
    · exact h.tx.mono (Nat.zero_le _) (Nat.zero_le _)
  · refine .of_inCall hw { h with mem := hm, txLength := ?_, retries := ?_, tx := ?_ } (.state holds)
    · exact fun hp => nomatch hp
    · exact ⟨Nat.zero_le _, fun _ => rfl⟩
    · exact h.tx.fail last
  · refine .of_inCall hw { h with retries := ?_, tx := h.tx.retry } (.state holds)
    exact ⟨le, fun hp => by simp [pend] at hp⟩

theorem inv_txState {hdr : Header} (hw : s.wctl = []) (h : InCall 0 0 s) (hu : execTxState hdr s = .next u) : Inv u := by
  obtain ⟨x, rfl⟩ | rfl | rfl := execTxState_cases hu
  · exact .of_inCall hw { h.expectRead x with } (.top rfl)
  · exact .of_inCall hw { h.setBs (b := .wrote) (by decide) with } (.top rfl)
  · exact .of_inCall hw { h with } (.top rfl)

/-- A worker's turn inside a call keeps the invariant, place by place. -/
theorem inv_call {c : Ctl} {k : List Ctl} (h : InCall (rxPending (c :: k)) (txPending (c :: k)) s)
    (place : WorkerPlace s (c :: k))
    (hu : runFetched (decode s.cfg (ctlPoint s c).1 (ctlPoint s c).2.1, { s with wctl := (ctlPoint s c).2.2 ++ k }) =
      .next u) : Inv u := by
  cases place with
  | telegram idle packet => exact inv_telegram h idle packet hu
  | mac idle => exact inv_mac (s := { s with wctl := [] }) rfl { h with } idle hu
  | long idle two fit => exact inv_long (s := { s with wctl := [] }) rfl { h with } idle two fit hu
  | @event t idle data =>
    have hd : decode s.cfg (.event s.arb.bs s.arb.polled (hdrMatch s.arb t)) t =
        .ok (decodeEvent s.cfg s.arb.bs s.arb.polled (hdrMatch s.arb t) t) := if_pos data
    simp only [ctlPoint, hd, runFetched_ok] at hu
    exact inv_decodeEvent (s := { s with wctl := [] }) rfl { h with } idle data hu
  | @case t idle data =>
    have hd : decode s.cfg (.case s.arb.bs s.arb.polled false) t =
        .ok (decodeCase s.cfg s.arb.bs s.arb.polled false t) := if_pos data
    simp only [ctlPoint, hd, runFetched_ok] at hu
    exact inv_decodeCase (s := { s with wctl := [] }) rfl { h with } idle data hu
  | @dest t idle data =>
    have hd : decode s.cfg .dest t = .ok (decodeDest t) := if_pos data
    simp only [ctlPoint, hd, runFetched_ok] at hu
    exact inv_decodeDest (s := { s with wctl := [.op (.dataAccept t)] }) rfl { h with } idle data hu
  | accept idle data =>
    obtain ⟨-, rfl⟩ := execDataAccept_eq_next hu
    exact .of_inCall rfl { h.accept data with } (.top idle)
  | acceptInvoke idle data holds =>
    obtain ⟨-, rfl⟩ := execDataAccept_eq_next hu
    exact .of_inCall rfl { h.accept data with } (.invoke idle holds)
  | invoke idle holds => cases hu; exact .of_inCall rfl { h with } (.pull idle holds)
  | pull idle holds => exact inv_txPull (s := { s with wctl := [.pulled] }) rfl { h with } idle holds hu
  | pulled idle holds =>
    cases pend : s.tx.txpend with
    | true =>
      have hp : ctlPoint s .pulled = (.call .txStamp, [], [.stamped]) := if_pos pend
      rw [hp] at hu
      exact inv_txStamp (s := { s with wctl := [.stamped] }) rfl { h with } idle holds pend hu
    | false =>
      have hp : ctlPoint s .pulled = (.call (.txRelease .call), [], []) := if_neg (by simp [pend])
      rw [hp] at hu
      exact inv_txRelease (s := { s with wctl := [] }) rfl { h with } idle holds hu
  | stamped idle holds pend => exact inv_txBudget (s := { s with wctl := [.budgeted] }) rfl { h with } idle holds pend hu
  | budgeted idle holds pend =>
    cases late : s.wret with
    | true =>
      have hp : ctlPoint s .budgeted = (.call (.txRelease .call), [], []) := if_pos late
      rw [hp] at hu
      exact inv_txRelease (s := { s with wctl := [] }) rfl { h with } idle holds hu
    | false =>
      have hp : ctlPoint s .budgeted = (.call .txAttempt, [], [.attempted (headerOf (txTelegram s))]) :=
        if_neg (by simp [late])
      rw [hp] at hu
      exact inv_txAttempt (s := { s with wctl := [.attempted (headerOf (txTelegram s))] }) rfl { h with } idle holds pend hu
  | write packet phase holds caller =>
    exact inv_txWrite (s := { s with wctl := k }) rfl { h with } packet holds caller hu
  | writeByte packet phase holds caller => cases hu; exact .of_inCall rfl { h with } (.write packet phase holds caller)
  | writeBreak packet phase holds caller =>
    cases hu; exact .of_inCall rfl { h with parity := rfl } (.write packet phase holds caller)
  | @attempted hdr holds pend =>
    exact inv_txResult (s := { s with wctl := [.op (.txState hdr)] }) rfl { h with } holds pend hu
  | state holds => exact inv_txState (s := { s with wctl := [] }) rfl { h with } hu
  | finish holds => cases hu; exact .of_inCall rfl { h.releaseBus with } (.top rfl)

/-! ### The top of `WorkerStep` -/

/-- At the top of `WorkerStep` the framer may take any state (R130). -/
theorem inv_setFs (hw : s.wctl = []) (h : Inv s) (f : FramerState) : Inv (setFs f s) :=
  { h with framerAtRest := fun hn => absurd hw hn }

theorem inv_appendRx (hw : s.wctl = []) (h : Inv s) (b : Byte) : Inv (appendRx b s) := by
  have mem := appendRx_memory_wf b s h.mem
  obtain ⟨-, -, fit, -⟩ := (memory_wf_iff s).mp h.mem
  obtain ⟨room, he⟩ | ⟨-, -, he⟩ | ⟨full, -, he⟩ := appendRx_cases b s
  · rw [he] at mem ⊢
    exact { h with
      mem := mem
      overflow := fun ho => absurd (h.overflow ho) (Nat.ne_of_lt room)
      framerAtRest := fun hn => absurd hw hn }
  · rw [he]; exact h
  · rw [he] at mem ⊢
    exact { h with
      mem := mem
      overflow := fun _ => Nat.le_antisymm fit full
      framerAtRest := fun hn => absurd hw hn }

/-- `RX.BREAK` calls the arbiter with the framer at rest (R136, R144). -/
theorem inv_rxBreak (hw : s.wctl = []) (h : Inv s) (running : s.stopped = false) (nonempty : s.frm.rxlen ≠ 0)
    (hu : execRxBreak s = .next u) : Inv u := by
  cases hu
  obtain ⟨hbuf, htx, hlen, htxlen, hin, hout, hiq, hoq⟩ := (memory_wf_iff s).mp h.mem
  have packet : packetOk (rxTelegram s) = true := by
    rw [packetOk_iff, rxTelegram, List.length_take, hbuf]
    omega
  have idle : s.tx.txp = .idle := by
    have place := (wctlOk_iff s).mp h.worker
    rw [hw] at place
    cases place with | top idle => exact idle
  refine .of_inCall (callW_wctl_eq hw) { h with
    mem := ?_, times := ?_, atRest := ⟨rfl, rfl, rfl⟩, running := running, rx := ?_, tx := ?_ } (.telegram idle packet)
  · exact (memory_wf_iff _).mpr ⟨hbuf, htx, Nat.zero_le _, htxlen, hin, hout, hiq, hoq⟩
  · exact ⟨h.times.1, fun t ht => (Option.some.inj ht).symm.le⟩
  · have := h.rxSum; rwa [hw] at this
  · have := h.txSum; rwa [hw] at this

/-- The framer's operation for a raw byte (R130). -/
theorem inv_decodeRaw {b : Byte} (hw : s.wctl = []) (h : Inv s) (running : s.stopped = false)
    (hu : exec (decodeRaw s.frm.fs (s.frm.rxlen == 0) b) s = .next u) : Inv u := by
  have state (f : FramerState) : Inv (setFs f s) := inv_setFs hw h f
  have append (x : Byte) : Inv (setFs .idle (appendRx x s)) :=
    inv_setFs (by rw [appendRx_wctl, hw]) (inv_appendRx hw h x) .idle
  unfold decodeRaw at hu
  generalize s.frm.fs = f at hu
  cases f with
  | idle =>
    dsimp only at hu
    split at hu <;> cases hu
    · exact state .esc1
    · exact append b
  | esc1 =>
    dsimp only at hu
    split at hu
    · cases hu; exact append escByte
    · split at hu <;> cases hu
      · exact state .esc2
      · exact state .idle
  | esc2 =>
    dsimp only at hu
    split at hu
    · split at hu
      · cases hu; exact state .idle
      · exact inv_rxBreak hw h running (by simpa using ‹¬(s.frm.rxlen == 0) = true›) hu
    · cases hu; exact state .idle

theorem inv_sysStop (hw : s.wctl = []) (h : Inv s) : Inv (stopWorker s) :=
  { h with
    framerAtRest := fun hn => absurd rfl hn
    worker := (wctlOk_iff _).mpr (.top rfl)
    stopped := fun _ => rfl
    rxSum := by have := h.rxSum; rwa [hw] at this
    txSum := by have := h.txSum; rwa [hw] at this }

theorem inv_lineRead (h : Inv s) : Inv (lineRead s).2 := by
  obtain ⟨l, d, he⟩ := lineRead_snd_eq s
  rw [he]; exact { h with }

/-- A worker's turn keeps the invariant. -/
theorem inv_workerTurn (h : Inv s) (hu : workerTurn s = .next u) : Inv u := by
  obtain ⟨-, rfl⟩ | ⟨running, hu⟩ := workerTurn_eq_next.mp hu
  · exact h
  have hu : runFetched (workerFetch s) = .next u := runFetched_eq_next.mpr hu
  cases hw : s.wctl with
  | cons c k =>
    rw [workerFetch_cons hw] at hu
    have place := (wctlOk_iff s).mp h.worker
    have hc := h.inCall running (by simp [hw])
    rw [hw] at place hc
    exact inv_call hc place hu
  | nil =>
    obtain hs | hs := Bool.eq_false_or_eq_true s.stop
    · rw [workerFetch_stop hw hs] at hu
      cases hu
      exact inv_sysStop hw h
    · rw [workerFetch_read hw hs] at hu
      have hr := inv_lineRead h
      have hrw : (lineRead s).2.wctl = [] := by rw [lineRead_wctl, hw]
      cases ho : (lineRead s).1 with
      | timeout => rw [ho] at hu; cases hu; exact hr
      | byte b =>
        rw [ho] at hu
        refine inv_decodeRaw (b := b) hrw hr (by rw [lineRead_stopped, running]) ?_
        rw [lineRead_frm]
        exact hu

end

end Sys2Proof.Machine
end

section
/-! The decoder agent's turn and the environment's keep the invariant, and with the worker's turn every step does. -/

namespace Sys2Proof.Machine

/-! ### Candidates within their widths (R46..R51, R273) -/

theorem natAt_lt (t : Telegram) (k : Nat) : natAt t k < 256 := (byteAt t k).isLt

theorem be16_lt (t : Telegram) (k : Nat) : be16 t k < 65536 := by
  have hi := natAt_lt t k
  have lo := natAt_lt t (k + 1)
  simp only [natAt] at hi lo
  simp only [be16]
  omega

theorem be24_lt (t : Telegram) (k : Nat) : be24 t k < 16777216 := by
  have hi := natAt_lt t k
  have mid := natAt_lt t (k + 1)
  have lo := natAt_lt t (k + 2)
  simp only [natAt] at hi mid lo
  simp only [be24]
  omega

theorem sext16_range (t : Telegram) (k : Nat) : -32768 ≤ sext16 (be16 t k) ∧ sext16 (be16 t k) ≤ 32767 := by
  have h := be16_lt t k
  unfold sext16
  split <;> omega

theorem fits_natAt (t : Telegram) (k : Nat) : fits (some (natAt t k)) 256 = true := decide_eq_true (natAt_lt t k)

theorem fits_be16 (t : Telegram) (k : Nat) : fits (some (be16 t k)) 65536 = true := decide_eq_true (be16_lt t k)

theorem fits16_sext16 (t : Telegram) (k : Nat) : fits16 (some (sext16 (be16 t k))) = true := by
  simp [fits16, sext16_range t k]

/-- The year is in 2000..2255 (R248). -/
theorem year_range (t : Telegram) : 2000 + natAt t 4 ≤ 2255 := by
  have := natAt_lt t 4
  omega

/-- A counter that a filter accepted is within its bounds whatever the last value was (R253). -/
theorem optimeOk_none {c : Cfg} {last : Option Nat} {v : Nat} (h : optimeOk c last v = true) : optimeOk c none v = true := by
  simp only [optimeOk, Bool.and_eq_true] at h ⊢
  exact ⟨h.1, trivial⟩

/-! ### The layouts keep the store within its widths -/

section

variable {s u : State} {t : Telegram}

theorem inv_decUbaFast (h : Inv s) (hu : execDecUbaFast t s = .next u) : Inv u := by
  obtain ⟨-, hu⟩ := need_eq_next.mp hu
  cases hu
  have old := h.store
  simp only [storeOk, Bool.and_eq_true] at old
  exact { h with store := by simp [storeOk, commitFast, old, fits_natAt, fits_be16, fits16_sext16] }

theorem inv_decUbaWw (h : Inv s) (hu : execDecUbaWw t s = .next u) : Inv u := by
  obtain ⟨-, hu⟩ := need_eq_next.mp hu
  cases hu
  have old := h.store
  simp only [storeOk, Bool.and_eq_true] at old
  exact { h with store := by simp [storeOk, commitWw, old, fits_natAt, fits16_sext16] }

theorem inv_decRcTime (h : Inv s) (hu : execDecRcTime t s = .next u) : Inv u := by
  obtain ⟨-, hu⟩ := need_eq_next.mp hu
  cases hu
  have old := h.store
  simp only [storeOk, Bool.and_eq_true] at old
  exact { h with store := by simp [storeOk, commitTime, old, fits_natAt, year_range] }

theorem inv_decRcMode (h : Inv s) (hu : execDecRcMode t s = .next u) : Inv u := by
  obtain ⟨-, hu⟩ := need_eq_next.mp hu
  cases hu
  have old := h.store
  simp only [storeOk, Bool.and_eq_true] at old
  exact { h with store := by simp [storeOk, commitMode, old, fits_natAt] }

theorem inv_decUbaErr (h : Inv s) (hu : execDecUbaErr t s = .next u) : Inv u := by
  obtain ⟨-, hu⟩ := need_eq_next.mp hu
  cases hu
  have old := h.store
  simp only [storeOk, Bool.and_eq_true] at old
  exact { h with store := by simp [storeOk, commitErr, old, fits_natAt] }

/-- An update keeps what its own values and the stored one have. -/
theorem updated_keeps {α : Type} {p : Option α → Prop} {n o : Option α} (new : ∀ v, n = some v → p (some v)) (old : p o) :
    p (updated n o) := by
  cases n with
  | none => exact old
  | some v => exact new v rfl

theorem inv_decUbaSlow (h : Inv s) (hu : execDecUbaSlow t s = .next u) : Inv u := by
  obtain ⟨r, b, a, rfl, starts, optime, exhaust⟩ := execDecUbaSlow_cases hu
  have starts_fits (v : Nat) (hv : r.starts = some v) : fits (some v) 16777216 = true := by
    rw [(starts v hv).1]; exact decide_eq_true (be24_lt t 12)
  have optime_fits (v : Nat) (hv : r.optimeMin = some v) : fits (some v) 16777216 = true := by
    rw [(optime v hv).1]; exact decide_eq_true (be24_lt t 15)
  have exhaust_fits (v : Int) (hv : r.exhaustTemp = some v) : fits16 (some v) = true := by
    obtain ⟨⟨k, rfl⟩, -⟩ := exhaust v hv
    exact fits16_sext16 t k
  have starts_ok (v : Nat) (hv : r.starts = some v) : startsOk s.cfg v = true := by
    rw [(starts v hv).1]; exact (starts v hv).2
  have optime_ok (v : Nat) (hv : r.optimeMin = some v) : optimeOk s.cfg none v = true := by
    rw [(optime v hv).1]; exact optimeOk_none (optime v hv).2
  have exhaust_ok (v : Int) (hv : r.exhaustTemp = some v) : exhaustOk s.cfg v = true := (exhaust v hv).2
  have old := h.store
  simp only [storeOk, Bool.and_eq_true] at old
  refine { h with store := ?_ }
  simp only [storeOk, commitSlow, old, Bool.and_true, Bool.true_and, Bool.and_eq_true]
  obtain ⟨⟨⟨old, starts_old⟩, optime_old⟩, exhaust_old⟩ := old
  refine ⟨⟨⟨⟨⟨?_, ?_⟩, ?_⟩, ?_⟩, ?_⟩, ?_⟩
  · exact updated_keeps (p := (fits · 16777216 = true)) starts_fits (by simp only [old])
  · exact updated_keeps (p := (fits · 16777216 = true)) optime_fits (by simp only [old])
  · exact updated_keeps (p := (fits16 · = true)) exhaust_fits (by simp only [old])
  · cases hr : r.starts with
    | none => exact starts_old
    | some v => exact starts_ok v hr
  · cases hr : r.optimeMin with
    | none => exact optime_old
    | some v => exact optime_ok v hr
  · cases hr : r.exhaustTemp with
    | none => exact exhaust_old
    | some v => exact exhaust_ok v hr

end

/-! ### The decoder agent's turn -/

/-- The stacks of pending calls of the decoder agent: `dctlOk` as an inductive predicate. -/
inductive DecoderPlace (c : Cfg) : List DCtl → Prop
  | top : DecoderPlace c []
  | dispatch {t : Telegram} (data : isDataLen t = true) : DecoderPlace c [.op (.decDispatch t)]
  | key {t : Telegram} (data : isDataLen t = true) : DecoderPlace c [.key t]
  | layout {t : Telegram} {r : Row} (data : isDataLen t = true) (row : findRow c t = some r)
      (long : layoutMinLen r.layout ≤ t.length) : DecoderPlace c [.layout t]
  | undecoded {t : Telegram} {k : UndecodedCause} (data : isDataLen t = true) : DecoderPlace c [.op (.decUndecoded t k)]
  | guard {t : Telegram} {r : Row} (data : isDataLen t = true) (row : findRow c t = some r) :
      DecoderPlace c [.op (.decGuard t (layoutMinLen r.layout))]

theorem dctlOk_iff (s : State) : dctlOk s = true ↔ DecoderPlace s.cfg s.dctl := by
  unfold dctlOk
  generalize s.dctl = ds
  constructor
  · intro h
    split at h
    case h_1 => exact .top
    case h_2 => exact .dispatch h
    case h_3 => exact .key h
    case h_4 t =>
      obtain ⟨data, h⟩ := Bool.and_eq_true_iff.mp h
      cases row : findRow s.cfg t with
      | none => rw [row] at h; cases h
      | some r => rw [row] at h; exact .layout data row (of_decide_eq_true h)
    case h_5 => exact .undecoded h
    case h_6 t n =>
      obtain ⟨data, h⟩ := Bool.and_eq_true_iff.mp h
      cases row : findRow s.cfg t with
      | none => rw [row] at h; cases h
      | some r =>
        rw [row] at h
        obtain rfl := beq_iff_eq.mp h
        exact .guard data row
    case h_7 => cases h
  · intro h
    cases h <;> simp_all

section

variable {s u : State}

theorem inv_callD {c : DCtl} (hd : s.dctl = []) (h : Inv s) (place : DecoderPlace s.cfg [c]) : Inv (callD c s) :=
  { h with decoder := (dctlOk_iff _).mpr (by rw [callD_dctl, hd]; exact place) }

/-- What is received is a data telegram: `INQ` holds nothing else (R111). -/
theorem inv_decRecv (hd : s.dctl = []) (h : Inv s) (hu : execDecRecv s = .next u) : Inv u := by
  obtain rfl | ⟨p, q, hq, hu⟩ := execDecRecv_cases hu
  · exact h
  have data := h.inqData
  rw [hq, List.all_cons, Bool.and_eq_true] at data
  have popped : Inv { s with inq := q } := { h with
    mem := by have := popInq_memory_wf s h.mem; rwa [hq] at this
    inqData := data.2 }
  obtain rfl | ⟨-, rfl⟩ := hu
  · exact popped
  · exact inv_callD hd popped (.dispatch data.1)

theorem inv_decGuard {t : Telegram} {r : Row} (hd : s.dctl = []) (h : Inv s) (data : isDataLen t = true)
    (row : findRow s.cfg t = some r) (hu : execDecGuard t (layoutMinLen r.layout) s = .next u) : Inv u := by
  obtain rfl | ⟨long, rfl⟩ := execDecGuard_cases hu
  · exact inv_callD hd h (.undecoded data)
  · exact inv_callD hd h (.layout data row long)

/-- The key selects the plus rule, a report, or the guard of its row (R241). -/
theorem inv_decodeKey {t : Telegram} (hd : s.dctl = []) (h : Inv s) (data : isDataLen t = true)
    (hu : exec (decodeKey s.cfg t) s = .next u) : Inv u := by
  unfold decodeKey at hu
  split at hu
  · obtain ⟨c, rfl⟩ | ⟨r, row, rfl⟩ := execDecPlus_cases hu
    · exact inv_callD hd h (.undecoded data)
    · exact inv_callD hd h (.guard data row)
  · split at hu
    · cases hu; exact { h with }
    · exact inv_decGuard hd h data ‹_› hu

theorem inv_layoutInstr {t : Telegram} (h : Inv s) (l : Layout) (hu : exec (layoutInstr t l) s = .next u) : Inv u := by
  cases l with
  | ubaFast => exact inv_decUbaFast h hu
  | ubaSlow => exact inv_decUbaSlow h hu
  | ubaWw => exact inv_decUbaWw h hu
  | rcTime => exact inv_decRcTime h hu
  | rcMode => exact inv_decRcMode h hu
  | ubaErr => exact inv_decUbaErr h hu

/-- A decoder agent's turn keeps the invariant. -/
theorem inv_decoderTurn (h : Inv s) (hu : decoderTurn s = .next u) : Inv u := by
  have place := (dctlOk_iff s).mp h.decoder
  have hu : runFetched (decoderFetch s) = .next u := hu
  cases hd : s.dctl with
  | nil =>
    rw [decoderFetch_nil hd] at hu
    exact inv_decRecv hd h hu
  | cons c k =>
    rw [decoderFetch_cons hd] at hu
    rw [hd] at place
    have h : Inv { s with dctl := [] } := { h with decoder := rfl }
    cases place with
    | dispatch data =>
      obtain ⟨-, hu⟩ := need_eq_next.mp hu
      cases hu
      exact inv_callD rfl h (.key data)
    | @key t data =>
      have hk : decode s.cfg .key t = .ok (decodeKey s.cfg t) := if_pos data
      simp only [dctlPoint, hk, runFetched_ok] at hu
      exact inv_decodeKey rfl h data hu
    | @layout t r data row long =>
      have hl : decode s.cfg .layout t = .ok (layoutInstr t r.layout) := by simp only [decode, row]
      simp only [dctlPoint, hl, runFetched_ok] at hu
      exact inv_layoutInstr h r.layout hu
    | undecoded data => cases hu; exact { h with }
    | guard data row => exact inv_decGuard rfl h data row hu

/-! ### Every turn -/

/-- A producer's packet is 1 to 32 bytes, or the turn is refused (R66, U16). -/
theorem inv_produce {p : List Byte} (h : Inv s) (hu : runTurn (.produce p) s = .next u) : Inv u := by
  obtain ⟨packet, rfl⟩ := runTurn_produce_eq_next hu
  exact { h with mem := pushOut_memory_wf p s packet h.mem }

theorem inv_advance (h : Inv s) (d : Nat) : Inv { s with now := s.now + d } :=
  { h with times := ⟨Nat.le_add_right_of_le h.times.1, fun t ht => Nat.le_add_right_of_le (h.times.2 t ht)⟩ }

theorem inv_takeTurn (h : Inv s) : Inv (takeTurn s).2 := by
  obtain ⟨ts, d, he⟩ := takeTurn_snd_eq s
  rw [he]; exact { h with }

theorem inv_runTurn {t : Turn} (h : Inv s) (hu : runTurn t s = .next u) : Inv u := by
  cases t with
  | worker => exact inv_workerTurn h hu
  | decoder => exact inv_decoderTurn h hu
  | advance d => cases hu; exact inv_advance h d
  | produce p => exact inv_produce h hu
  | stopInput b => cases hu; exact { h with }
  | restart => cases hu; exact restart_inv h.config

end

/-- Settles O55: each kind of turn keeps the invariant; the worker's by the place where it stands (R276). -/
theorem invKept : Obligations.InvKept := fun _ _ h hu =>
  inv_runTurn (inv_takeTurn h) (step_eq_next.mp hu).2

end Sys2Proof.Machine
end

section
/-! What the two waits on the line consume (20_memory.md R72, R73, R76). -/

namespace Sys2Proof.Machine

/-- An `AVAIL` item answers a `LineAvail` only: a `LineRead` goes on to the items behind it (R14). -/
theorem lineRead_avail {s : State} {l : List LineItem} (h : s.line = .avail :: l) :
    lineRead s = lineRead { s with line := l } := by
  have passedOver : readItems s.line = readItems l := by rw [h, readItems]
  simp only [lineRead, passedOver]

/-- Settles O6, by what stands at the head of the line's list. -/
theorem lineWaits : Obligations.LineWaits := fun _ _ _ =>
  ⟨fun rx => ⟨lineRead_rx rx, lineAvail_rx rx⟩,
    fun tmo => ⟨lineRead_tmo tmo, lineAvail_tmo tmo⟩,
    fun avail => ⟨lineRead_avail avail, lineAvail_avail avail⟩,
    fun atEnd => ⟨lineRead_nil atEnd, lineAvail_nil atEnd⟩⟩

end Sys2Proof.Machine
end

section
/-! What selects an operation (30_encoding.md R91 to R107): what each bit test says of the value of a byte, then what the decoder
answers at each point and which header leads to which operation there. -/

namespace Sys2Proof

/-! ### Bytes as numbers -/

/-- Bit 7 is set from 128 on (30_encoding.md R104, R106). -/
theorem bit7_iff {v : Byte} : bit7 v = true ↔ 128 ≤ v.toNat := by
  rw [bit7, ← BitVec.msb_eq_getLsbD_last v, BitVec.msb_eq_decide, decide_eq_true_iff]

theorem bit7_of_lt {v : Byte} (low : v.toNat < 128) : bit7 v = false :=
  Bool.eq_false_iff.mpr fun h => absurd (bit7_iff.mp h) (Nat.not_le_of_lt low)

theorem devIdOf_toNat (v : Byte) : (devIdOf v).toNat = v.toNat % 128 := BitVec.toNat_setWidth 7 v

/-- A byte with bit 7 clear is its own id, so it is from the device polled under that id (R172, R274). -/
theorem polledIs_devIdOf {v : Byte} (low : bit7 v = false) : polledIs (some (devIdOf v)) v = true := by
  have lt : v.toNat < 128 := Nat.lt_of_not_le fun h => Bool.eq_false_iff.mp low (bit7_iff.mpr h)
  have same : (devIdOf v).setWidth 8 = v :=
    BitVec.eq_of_toNat_eq (by rw [BitVec.toNat_setWidth, devIdOf_toNat]; omega)
  simp only [polledIs, Option.map_some, same, beq_self_eq_true]

/-- A mask of the bits from `k` up clears the bits below: it rounds down to a multiple of `2 ^ k`. -/
theorem and_highMask_eq_iff {v : Byte} (mask m : Byte) (k : Nat) (high : mask = BitVec.allOnes 8 <<< k) :
    v &&& mask = m ↔ v.toNat / 2 ^ k * 2 ^ k = m.toNat := by
  have fits : v.toNat / 2 ^ k * 2 ^ k < 2 ^ 8 := lt_of_le_of_lt (Nat.div_mul_le_self _ _) v.isLt
  rw [high, ← BitVec.shiftLeft_ushiftRight, ← BitVec.toNat_inj, BitVec.toNat_shiftLeft, BitVec.toNat_ushiftRight,
    Nat.shiftRight_eq_div_pow, Nat.shiftLeft_eq, Nat.mod_eq_of_lt fits]

/-! ### Control bytes (R101 to R105) -/

theorem decodeMac_of_release {v : Byte} (lo : 8 ≤ v.toNat) (hi : v.toNat < 128) : decodeMac v = .macRel v := by
  have notAck : v ≠ macAckByte := by rintro rfl; exact absurd lo (by decide)
  have range : macRelLo ≤ v ∧ v ≤ macRelHi := ⟨BitVec.le_def.mpr lo, BitVec.le_def.mpr (Nat.le_of_lt_succ hi)⟩
  rw [decodeMac, if_neg notAck, if_pos range]

theorem decodeMac_of_assign {v : Byte} {id : DevId} (value : v.toNat = 128 + id.toNat) :
    decodeMac v = .macAssign id := by
  have notAck : v ≠ macAckByte := by
    rintro rfl
    have one : 1 = 128 + id.toNat := value
    omega
  have notRel : ¬ (macRelLo ≤ v ∧ v ≤ macRelHi) := fun h => by
    have hi : v.toNat ≤ 127 := BitVec.le_def.mp h.2
    omega
  have sameId : devIdOf v = id := BitVec.eq_of_toNat_eq (by rw [devIdOf_toNat]; omega)
  rw [decodeMac, if_neg notAck, if_neg notRel, if_pos (bit7_iff.mpr (by omega)), sameId]

theorem decodeMac_of_reserved {v : Byte} (lt : v.toNat < 8) (notOne : v.toNat ≠ 1) : decodeMac v = .macRsvd v := by
  have notAck : v ≠ macAckByte := by rintro rfl; exact notOne rfl
  have notRel : ¬ (macRelLo ≤ v ∧ v ≤ macRelHi) := fun h => Nat.not_le_of_lt lt (BitVec.le_def.mp h.1)
  rw [decodeMac, if_neg notAck, if_neg notRel, if_neg (by rw [bit7_of_lt (by omega)]; decide)]

/-! ### What is selected at each point -/

section

variable {c : Cfg} {t : Telegram}

theorem decode_telegram_long (two : 2 ≤ t.length) (fit : t.length ≤ maxTelegram) :
    decode c .telegram t = .ok (.tgLong t) := by
  obtain _ | ⟨a, _ | ⟨b, t⟩⟩ := t
  · exact absurd two (by simp)
  · exact absurd two (by simp)
  · exact if_pos fit

theorem decode_long_short (two : 2 ≤ t.length) (short : t.length < minDataLen) :
    decode c .long t = .ok (.tgShort t) := by
  have fit : t.length ≤ maxTelegram := Nat.le_of_lt (short.trans (by decide))
  rw [decode, if_pos ⟨two, fit⟩, if_pos short]

theorem decode_long_data (data : isDataLen t = true) : decode c .long t = .ok (.dataEvent t) := by
  obtain ⟨six, fit⟩ := Machine.isDataLen_iff.mp data
  rw [decode, if_pos ⟨Nat.le_trans (by decide) six, fit⟩, if_neg (Nat.not_lt_of_le six)]

/-- At the four points that take a data telegram, its length admits it and its header selects (R98). -/
theorem decode_event (data : isDataLen t = true) (bs : BusState) (polled : Option DevId) (m : Bool) :
    decode c (.event bs polled m) t = .ok (decodeEvent c bs polled m t) := if_pos data

theorem decode_case (data : isDataLen t = true) (bs : BusState) (polled : Option DevId) (m : Bool) :
    decode c (.case bs polled m) t = .ok (decodeCase c bs polled m t) := if_pos data

theorem decode_dest (data : isDataLen t = true) : decode c .dest t = .ok (decodeDest t) := if_pos data

theorem decode_key (data : isDataLen t = true) : decode c .key t = .ok (decodeKey c t) := if_pos data

/-- After the guard, the row that the key matches gives the layout (R107, R243). -/
theorem decode_layout {l : Layout} (row : layoutOf c t = some l) : decode c .layout t = .ok (layoutInstr t l) := by
  obtain ⟨r, found, rfl⟩ := Option.map_eq_some_iff.mp row
  simp only [decode, found]

theorem decodeEvent_of_badAddress {bs : BusState} {polled : Option DevId} {m : Bool}
    (bad : validSrc (byteAt t 0) = false ∨ validDst (byteAt t 1) = false) :
    decodeEvent c bs polled m t = .dataAddr t := if_pos bad

theorem decodeEvent_of_preempted {bs : BusState} {polled : Option DevId} (src : validSrc (byteAt t 0) = true)
    (dst : validDst (byteAt t 1) = true) (master : byteAt t 0 = c.masterId) :
    decodeEvent c bs polled false t = .dataPreempt t := by
  rw [decodeEvent, if_neg (by simp only [src, dst]; decide), if_pos ⟨master, rfl⟩]

theorem decodeCase_of_unassigned {polled : Option DevId} {m : Bool} (other : byteAt t 0 ≠ c.masterId) :
    decodeCase c .released polled m t = .dataUnassigned t := if_pos other

theorem decodeCase_of_wrongSender {polled : Option DevId} {m : Bool} (unpolled : polledIs polled (byteAt t 0) = false)
    (other : byteAt t 0 ≠ c.masterId) : decodeCase c .assigned polled m t = .dataWrongsender t := if_pos ⟨unpolled, other⟩

theorem decodeCase_of_sender {polled : Option DevId} {m : Bool}
    (sender : polledIs polled (byteAt t 0) = true ∨ byteAt t 0 = c.masterId) :
    decodeCase c .assigned polled m t = .dataClassify t := by
  refine if_neg fun ⟨unpolled, other⟩ => ?_
  obtain polled | master := sender
  · exact absurd polled (by rw [unpolled]; decide)
  · exact other master

theorem decodeDest_of_read (read : 128 ≤ (byteAt t 1).toNat) : decodeDest t = .dataReadreq t :=
  if_pos (bit7_iff.mpr read)

theorem decodeDest_of_write (lo : 8 ≤ (byteAt t 1).toNat) (hi : (byteAt t 1).toNat < 128) :
    decodeDest t = .dataWrite t := by
  have device : devLo ≤ byteAt t 1 := BitVec.le_def.mpr lo
  rw [decodeDest, if_neg (by rw [bit7_of_lt hi]; decide), if_pos device]

theorem decodeDest_of_broadcast (dst : byteAt t 1 = broadcastId) : decodeDest t = .dataBcast t := by
  rw [decodeDest, dst]; rfl

theorem decodeKey_of_plus (plus : byteAt t 2 = typePlus) : decodeKey c t = .decPlus t := if_pos plus

theorem decodeKey_of_layout {l : Layout} (notPlus : byteAt t 2 ≠ typePlus) (row : layoutOf c t = some l) :
    decodeKey c t = .decGuard t (layoutMinLen l) := by
  obtain ⟨r, found, rfl⟩ := Option.map_eq_some_iff.mp row
  rw [decodeKey, if_neg notPlus, found]

theorem decodeKey_of_unknown (unknown : keyUnknown c t = true) :
    decodeKey c t = .decUndecoded t (if bit7 (byteAt t 1) then .readRequest else .unknownKey) := by
  obtain ⟨notPlus, noRow⟩ := Bool.and_eq_true_iff.mp unknown
  rw [decodeKey, if_neg (bne_iff_ne.mp notPlus), Option.isNone_iff_eq_none.mp noRow]

end

end Sys2Proof
end

section
/-! Decoding undoes encoding (30_encoding.md R114): one lemma for each operation whose operands or header matter, by the fact of
its point above; every other operation's encoding evaluates to it. -/

namespace Sys2Proof

/-- The operation is what its own encoding decodes to. -/
def DecodesBack (c : Cfg) (i : Instr) : Prop := decode c (encode i).1 (encode i).2 = .ok i

section

variable {c : Cfg} {t : Telegram}

theorem rxData_decodesBack {b : Byte} (wf : (Instr.rxData b).wf = true) : DecodesBack c (.rxData b) :=
  congrArg Except.ok (if_neg (bne_iff_ne.mp wf))

theorem rxBadesc_decodesBack {y : Byte} (wf : (Instr.rxBadesc y).wf = true) : DecodesBack c (.rxBadesc y) := by
  obtain ⟨notZero, notEsc⟩ := Bool.and_eq_true_iff.mp wf
  exact congrArg Except.ok ((if_neg (bne_iff_ne.mp notEsc)).trans (if_neg (bne_iff_ne.mp notZero)))

theorem rxBadmark_decodesBack {x : Byte} (wf : (Instr.rxBadmark x).wf = true) : DecodesBack c (.rxBadmark x) :=
  congrArg Except.ok (if_neg (bne_iff_ne.mp wf))

theorem tgLong_decodesBack (wf : (Instr.tgLong t).wf = true) : DecodesBack c (.tgLong t) := by
  obtain ⟨two, fit⟩ := Bool.and_eq_true_iff.mp wf
  exact decode_telegram_long (of_decide_eq_true two) (of_decide_eq_true fit)

theorem tgShort_decodesBack (wf : (Instr.tgShort t).wf = true) : DecodesBack c (.tgShort t) := by
  obtain ⟨two, short⟩ := Bool.and_eq_true_iff.mp wf
  exact decode_long_short (of_decide_eq_true two) (of_decide_eq_true short)

theorem macRel_decodesBack {v : Byte} (wf : (Instr.macRel v).wf = true) : DecodesBack c (.macRel v) := by
  obtain ⟨lo, hi⟩ := Bool.and_eq_true_iff.mp wf
  exact congrArg Except.ok (decodeMac_of_release (BitVec.le_def.mp (of_decide_eq_true lo))
    (Nat.lt_succ_of_le (BitVec.le_def.mp (of_decide_eq_true hi))))

/-- An id has seven bits, so setting bit 7 adds 128 to it (R104). -/
theorem assignByte_toNat (id : DevId) : ((0x80 : Byte) ||| id.setWidth 8).toNat = 128 + id.toNat := by
  rw [BitVec.toNat_or, BitVec.toNat_setWidth_of_le (by decide)]
  exact (Nat.two_pow_add_eq_or_of_lt id.isLt 1).symm

theorem macAssign_decodesBack (id : DevId) : DecodesBack c (.macAssign id) :=
  congrArg Except.ok (decodeMac_of_assign (assignByte_toNat id))

theorem macRsvd_decodesBack {v : Byte} (wf : (Instr.macRsvd v).wf = true) : DecodesBack c (.macRsvd v) := by
  refine congrArg Except.ok ?_
  obtain zero | range := Bool.or_eq_true_iff.mp wf
  · obtain rfl := beq_iff_eq.mp zero
    rfl
  · obtain ⟨two, seven⟩ := Bool.and_eq_true_iff.mp range
    have two : 2 ≤ v.toNat := BitVec.le_def.mp (of_decide_eq_true two)
    have seven : v.toNat ≤ 7 := BitVec.le_def.mp (of_decide_eq_true seven)
    exact decodeMac_of_reserved (Nat.lt_succ_of_le seven) (by omega)

theorem dataAddr_decodesBack (data : isDataLen t = true) (fits : keyFits c (.dataAddr t) = true) :
    DecodesBack c (.dataAddr t) := by
  have bad : validSrc (byteAt t 0) = false ∨ validDst (byteAt t 1) = false :=
    (Bool.or_eq_true_iff.mp fits).imp Bool.eq_false_of_not_eq_true' Bool.eq_false_of_not_eq_true'
  exact (decode_event data ..).trans (congrArg _ (decodeEvent_of_badAddress bad))

theorem dataPreempt_decodesBack (data : isDataLen t = true) (fits : keyFits c (.dataPreempt t) = true) :
    DecodesBack c (.dataPreempt t) := by
  obtain ⟨addresses, master⟩ := Bool.and_eq_true_iff.mp fits
  obtain ⟨src, dst⟩ := Bool.and_eq_true_iff.mp addresses
  exact (decode_event data ..).trans (congrArg _ (decodeEvent_of_preempted src dst (beq_iff_eq.mp master)))

theorem dataUnassigned_decodesBack (data : isDataLen t = true) (fits : keyFits c (.dataUnassigned t) = true) :
    DecodesBack c (.dataUnassigned t) :=
  (decode_case data ..).trans (congrArg _ (decodeCase_of_unassigned (bne_iff_ne.mp fits)))

theorem dataWrongsender_decodesBack (data : isDataLen t = true) (fits : keyFits c (.dataWrongsender t) = true) :
    DecodesBack c (.dataWrongsender t) :=
  (decode_case data ..).trans (congrArg _ (decodeCase_of_wrongSender rfl (bne_iff_ne.mp fits)))

/-- The encoding polls the sender's own id, which is the sender's byte unless its bit 7 is set; then it is the master's. -/
theorem dataClassify_decodesBack (data : isDataLen t = true) (fits : keyFits c (.dataClassify t) = true) :
    DecodesBack c (.dataClassify t) := by
  have sender : polledIs (some (devIdOf (byteAt t 0))) (byteAt t 0) = true ∨ byteAt t 0 = c.masterId :=
    (Bool.or_eq_true_iff.mp fits).symm.imp (fun low => polledIs_devIdOf (Bool.eq_false_of_not_eq_true' low)) beq_iff_eq.mp
  exact (decode_case data ..).trans (congrArg _ (decodeCase_of_sender sender))

theorem dataReadreq_decodesBack (wf : (Instr.dataReadreq t).wf = true) : DecodesBack c (.dataReadreq t) := by
  obtain ⟨data, read⟩ := Bool.and_eq_true_iff.mp wf
  exact (decode_dest data).trans (congrArg _ (decodeDest_of_read (BitVec.le_def.mp (of_decide_eq_true read))))

theorem dataWrite_decodesBack (wf : (Instr.dataWrite t).wf = true) : DecodesBack c (.dataWrite t) := by
  obtain ⟨long, hi⟩ := Bool.and_eq_true_iff.mp wf
  obtain ⟨data, lo⟩ := Bool.and_eq_true_iff.mp long
  have write := decodeDest_of_write (BitVec.le_def.mp (of_decide_eq_true lo))
    (Nat.lt_succ_of_le (BitVec.le_def.mp (of_decide_eq_true hi)))
  exact (decode_dest data).trans (congrArg _ write)

theorem dataBcast_decodesBack (wf : (Instr.dataBcast t).wf = true) : DecodesBack c (.dataBcast t) := by
  obtain ⟨data, dst⟩ := Bool.and_eq_true_iff.mp wf
  exact (decode_dest data).trans (congrArg _ (decodeDest_of_broadcast (beq_iff_eq.mp dst)))

/-- A plus telegram's guard is called by the plus rule; any other's is selected by the key (R241, R251). -/
theorem decGuard_decodesBack {n : Nat} (data : isDataLen t = true) (fits : keyFits c (.decGuard t n) = true) :
    DecodesBack c (.decGuard t n) := by
  by_cases plus : byteAt t 2 = typePlus
  · simp only [DecodesBack, encode, if_pos plus, decode]
  · have row : (layoutOf c t).map layoutMinLen = some n :=
      beq_iff_eq.mp ((Bool.or_eq_true_iff.mp fits).resolve_left fun h => plus (beq_iff_eq.mp h))
    obtain ⟨l, found, rfl⟩ := Option.map_eq_some_iff.mp row
    simp only [DecodesBack, encode, if_neg plus, decode_key data, decodeKey_of_layout plus found]

theorem decPlus_decodesBack (wf : (Instr.decPlus t).wf = true) : DecodesBack c (.decPlus t) := by
  obtain ⟨data, plus⟩ := Bool.and_eq_true_iff.mp wf
  exact (decode_key data).trans (congrArg _ (decodeKey_of_plus (beq_iff_eq.mp plus)))

/-- The key reports an unknown key or a read request by bit 7 of the destination; the other two causes are their callers'
(R252). -/
theorem decUndecoded_decodesBack {cause : UndecodedCause} (data : isDataLen t = true)
    (fits : keyFits c (.decUndecoded t cause) = true) : DecodesBack c (.decUndecoded t cause) := by
  cases cause with
  | unknownKey =>
    obtain ⟨unknown, low⟩ := Bool.and_eq_true_iff.mp fits
    have cause := decodeKey_of_unknown unknown
    rw [Bool.eq_false_of_not_eq_true' low] at cause
    exact (decode_key data).trans (congrArg _ cause)
  | readRequest =>
    obtain ⟨unknown, high⟩ := Bool.and_eq_true_iff.mp fits
    have cause := decodeKey_of_unknown unknown
    rw [high] at cause
    exact (decode_key data).trans (congrArg _ cause)
  | tooShortForLayout | plus => rfl

end

/-- Settles O1, by cases on the operation: the framer's and the wire's, the telegram's format, the control bytes, the data
telegram's checks, the decoder's keys and layouts, and those no byte selects (R114). -/
theorem decodeEncode : Obligations.DecodeEncode := by
  intro c i wf fits
  cases i with
  | rxEsc | rxLitff | rxMark | rxBreak | rxBreak0 | rxTmo | txwByte | txwBreak => rfl
  | rxData => exact rxData_decodesBack wf
  | rxBadesc => exact rxBadesc_decodesBack wf
  | rxBadmark => exact rxBadmark_decodesBack wf
  | tgMac | macAck => rfl
  | tgLong => exact tgLong_decodesBack wf
  | tgShort => exact tgShort_decodesBack wf
  | macRel => exact macRel_decodesBack wf
  | macAssign id => exact macAssign_decodesBack id
  | macRsvd => exact macRsvd_decodesBack wf
  | dataEvent => exact decode_long_data wf
  | dataAddr => exact dataAddr_decodesBack wf fits
  | dataPreempt => exact dataPreempt_decodesBack wf fits
  | dataUnassigned => exact dataUnassigned_decodesBack wf fits
  | dataWrongsender => exact dataWrongsender_decodesBack wf fits
  | dataClassify => exact dataClassify_decodesBack wf fits
  | dataReadreq => exact dataReadreq_decodesBack wf
  | dataWrite => exact dataWrite_decodesBack wf
  | dataBcast => exact dataBcast_decodesBack wf
  | dataReadresp | dataInwrote => exact decode_case wf ..
  | decGuard => exact decGuard_decodesBack wf fits
  | decPlus => exact decPlus_decodesBack wf
  | decUndecoded => exact decUndecoded_decodesBack wf fits
  | decUbaFast | decUbaSlow | decUbaWw | decRcTime | decRcMode | decUbaErr => exact decode_layout (beq_iff_eq.mp fits)
  | dataAccept | txInvoke | txPull | txStamp | txBudget | txAttempt | txWrite | txResult | txState | txRelease | cksum
  | decRecv | decDispatch | fltOptime | fltStarts | fltExhaust | fltPass | sysStop => rfl

/-- Settles O2: the decoder evaluated on each word. -/
theorem writtenWordsDecode : Obligations.WrittenWordsDecode :=
  ⟨rfl, rfl, rfl, rfl, rfl, rfl, rfl, rfl, rfl, rfl, rfl⟩

end Sys2Proof
end

section
/-! The four classes of control bytes as ranges of their value and as match and mask pairs (30_encoding.md R101 to R105). -/

namespace Sys2Proof.Machine

/-- The values of the control bytes of a class (R101 to R104). -/
def MacClass.Holds : MacClass → Nat → Prop
  | .ack, n => n = 1
  | .release, n => 8 ≤ n ∧ n < 128
  | .assign id, n => n = 128 + id.toNat
  | .reserved, n => n < 8 ∧ n ≠ 1

/-- The operation of a control byte of a class (R160). -/
def MacClass.instr (v : Byte) : MacClass → Instr
  | .ack => .macAck
  | .release => .macRel v
  | .assign id => .macAssign id
  | .reserved => .macRsvd v

theorem macClass_holds (v : Byte) : (macClass v).Holds v.toNat := by
  have lt := v.isLt
  unfold macClass
  split
  · next ack => rw [ack]; rfl
  · next notAck =>
    have notOne : v.toNat ≠ 1 := fun h => notAck (BitVec.eq_of_toNat_eq h)
    split
    · next low => exact ⟨low, notOne⟩
    · next lo =>
      split
      · next hi => exact ⟨Nat.le_of_not_lt lo, hi⟩
      · next high =>
        rw [MacClass.Holds, BitVec.toNat_ofNat]
        omega

/-- No other class has the values of a class: the ranges exclude each other. -/
theorem macClass_of_holds {v : Byte} {k : MacClass} (h : k.Holds v.toNat) : macClass v = k := by
  have notAck (other : v.toNat ≠ 1) : v ≠ 1 := fun one => other (congrArg BitVec.toNat one)
  cases k with
  | ack => rw [macClass, if_pos (BitVec.eq_of_toNat_eq (y := (1 : Byte)) h)]
  | reserved => rw [macClass, if_neg (notAck h.2), if_pos h.1]
  | release =>
    obtain ⟨lo, hi⟩ := h
    rw [macClass, if_neg (notAck (by omega)), if_neg (Nat.not_lt_of_le lo), if_pos hi]
  | assign id =>
    have value : v.toNat = 128 + id.toNat := h
    have same : BitVec.ofNat 7 (v.toNat - 0x80) = id := by
      rw [value, Nat.add_sub_cancel_left, BitVec.ofNat_toNat, BitVec.setWidth_eq]
    rw [macClass, if_neg (notAck (by omega)), if_neg (by omega), if_neg (by omega), same]

theorem macClass_eq_iff {v : Byte} {k : MacClass} : macClass v = k ↔ k.Holds v.toNat :=
  ⟨fun h => h ▸ macClass_holds v, macClass_of_holds⟩

/-- Every value from 128 on is an assign of some id. -/
theorem exists_assign_iff {v : Byte} : (∃ id, macClass v = .assign id) ↔ 128 ≤ v.toNat := by
  simp only [macClass_eq_iff]
  constructor
  · rintro ⟨id, value⟩
    exact value ▸ Nat.le_add_right 128 id.toNat
  · intro high
    refine ⟨BitVec.ofNat 7 (v.toNat - 128), ?_⟩
    have lt := v.isLt
    rw [MacClass.Holds, BitVec.toNat_ofNat]
    omega

theorem decodeMac_of_holds {v : Byte} {k : MacClass} (h : k.Holds v.toNat) : decodeMac v = k.instr v := by
  cases k with
  | ack => rw [decodeMac, if_pos (BitVec.eq_of_toNat_eq (y := macAckByte) h), MacClass.instr]
  | release => exact decodeMac_of_release h.1 h.2
  | assign id => exact decodeMac_of_assign h
  | reserved => exact decodeMac_of_reserved h.1 h.2

/-- Settles O3: the class is the range its value lies in (`macClass_eq_iff`), and so is each match and mask pair
(`and_highMask_eq_iff`). -/
theorem controlBytesPartition : Obligations.ControlBytesPartition := by
  intro c v
  refine ⟨congrArg _ (decodeMac_of_holds (macClass_holds v)), ?ack, ?reserved, ?release, ?assign, fun id h => ?id⟩
  case ack =>
    rw [macClass_eq_iff, and_highMask_eq_iff 0xFF 0x01 0 rfl, Nat.pow_zero, Nat.div_one, Nat.mul_one]
    rfl
  case reserved =>
    rw [macClass_eq_iff, and_highMask_eq_iff 0xFF 0x00 0 rfl, and_highMask_eq_iff 0xFE 0x02 1 rfl,
      and_highMask_eq_iff 0xFC 0x04 2 rfl]
    simp only [MacClass.Holds, BitVec.reduceToNat]
    omega
  case release =>
    rw [macClass_eq_iff, and_highMask_eq_iff 0xF8 0x08 3 rfl, and_highMask_eq_iff 0xF0 0x10 4 rfl,
      and_highMask_eq_iff 0xE0 0x20 5 rfl, and_highMask_eq_iff 0xC0 0x40 6 rfl]
    simp only [MacClass.Holds, BitVec.reduceToNat]
    omega
  case assign =>
    rw [and_highMask_eq_iff 0x80 0x80 7 rfl, exists_assign_iff]
    simp only [BitVec.reduceToNat]
    omega
  case id =>
    have value : v.toNat = 128 + id.toNat := macClass_eq_iff.mp h
    omega

end Sys2Proof.Machine
end

section
/-! What a step runs: the operation decoded where the agent that has the turn stands (40_framer.md R130, 44_decoder.md R240,
45_arithmetic_and_control.md R276). -/

namespace Sys2Proof

/-! ### The framer's selection (R130) -/

section

variable {b : Byte} (rxEmpty : Bool)

theorem decodeRaw_idle_data (notEsc : b ≠ 0xFF) : decodeRaw .idle rxEmpty b = .rxData b := if_neg notEsc

theorem decodeRaw_idle_esc : decodeRaw .idle rxEmpty 0xFF = .rxEsc := rfl

theorem decodeRaw_esc1_esc : decodeRaw .esc1 rxEmpty 0xFF = .rxLitff := rfl

theorem decodeRaw_esc1_zero : decodeRaw .esc1 rxEmpty 0x00 = .rxMark := rfl

theorem decodeRaw_esc1_bad (notZero : b ≠ 0x00) (notEsc : b ≠ 0xFF) : decodeRaw .esc1 rxEmpty b = .rxBadesc b :=
  (if_neg notEsc).trans (if_neg notZero)

theorem decodeRaw_esc2_zero : decodeRaw .esc2 rxEmpty 0x00 = if rxEmpty then .rxBreak0 else .rxBreak := rfl

theorem decodeRaw_esc2_bad (notZero : b ≠ 0x00) : decodeRaw .esc2 rxEmpty b = .rxBadmark b := if_neg notZero

end

/-- A BREAK ends a telegram if the buffer holds a byte (R136). -/
theorem decodeRaw_break {n : Nat} (nonempty : n ≠ 0) : decodeRaw .esc2 (n == 0) 0x00 = .rxBreak := by
  rw [decodeRaw_esc2_zero, if_neg (by simpa using nonempty)]

/-- A BREAK on an empty buffer is no telegram (R139). -/
theorem decodeRaw_break0 {n : Nat} (empty : n = 0) : decodeRaw .esc2 (n == 0) 0x00 = .rxBreak0 := by
  rw [decodeRaw_esc2_zero, if_pos (by simpa using empty)]

end Sys2Proof

namespace Sys2Proof.Machine

/-! ### One turn of an agent -/

section

variable {s : State} {ts : List Turn}

theorem step_running (admitted : configOk s.cfg = true) (turn : s.turns = .worker :: ts) (running : s.stopped = false) :
    step s = runFetched (workerFetch { s with turns := ts }) :=
  (step_worker admitted turn).trans (workerTurn_running running)

theorem step_pendingCall (admitted : configOk s.cfg = true) (turn : s.turns = .worker :: ts) (running : s.stopped = false)
    {c : Ctl} {k : List Ctl} (place : s.wctl = c :: k) :
    step s = runFetched (decode s.cfg (ctlPoint s c).1 (ctlPoint s c).2.1,
      { s with turns := ts, wctl := (ctlPoint s c).2.2 ++ k }) := by
  have samePoint : ctlPoint { s with turns := ts } c = ctlPoint s c := ctlPoint_congr c rfl rfl rfl
  rw [step_running admitted turn running, workerFetch_cons (s := { s with turns := ts }) place, samePoint]

theorem step_stop (admitted : configOk s.cfg = true) (turn : s.turns = .worker :: ts) (running : s.stopped = false)
    (top : s.wctl = []) (raised : s.stop = true) : step s = exec .sysStop { s with turns := ts } := by
  rw [step_running admitted turn running, workerFetch_stop (s := { s with turns := ts }) top raised, runFetched_ok]

theorem step_lineRead (admitted : configOk s.cfg = true) (turn : s.turns = .worker :: ts) (running : s.stopped = false)
    (top : s.wctl = []) (notRaised : s.stop = false) :
    step s = runFetched (decode s.cfg (.raw s.frm.fs (s.frm.rxlen == 0)) (outcomeBytes (lineRead s).1),
      { (lineRead s).2 with turns := ts }) := by
  rw [step_running admitted turn running, workerFetch_read (s := { s with turns := ts }) top notRaised, lineRead_withTurns]

/-- After a raw byte the step is the framer operation it selects (R130). -/
theorem step_rawByte (admitted : configOk s.cfg = true) (turn : s.turns = .worker :: ts) (running : s.stopped = false)
    (top : s.wctl = []) (notRaised : s.stop = false) {b : Byte} {u : State} (read : lineRead s = (.byte b, u)) :
    step s = exec (decodeRaw s.frm.fs (s.frm.rxlen == 0) b) { u with turns := ts } := by
  rw [step_lineRead admitted turn running top notRaised, read]
  rfl

/-- After a time-out the step is `RX.TMO` in every framer state (R130, R138). -/
theorem step_timeout (admitted : configOk s.cfg = true) (turn : s.turns = .worker :: ts) (running : s.stopped = false)
    (top : s.wctl = []) (notRaised : s.stop = false) {u : State} (read : lineRead s = (.timeout, u)) :
    step s = exec .rxTmo { u with turns := ts } := by
  rw [step_lineRead admitted turn running top notRaised, read]
  rfl

theorem step_decoderCall (admitted : configOk s.cfg = true) (turn : s.turns = .decoder :: ts) {c : DCtl} {k : List DCtl}
    (place : s.dctl = c :: k) :
    step s = runFetched (decode s.cfg (dctlPoint c).1 (dctlPoint c).2, { s with turns := ts, dctl := k }) := by
  rw [step_decoder admitted turn, decoderTurn, decoderFetch_cons (s := { s with turns := ts }) place]

theorem step_decoderIdle (admitted : configOk s.cfg = true) (turn : s.turns = .decoder :: ts) (idle : s.dctl = []) :
    step s = exec .decRecv { s with turns := ts } := by
  rw [step_decoder admitted turn, decoderTurn, decoderFetch_nil (s := { s with turns := ts }) idle, runFetched_ok]

/-- Past the end of the list the turn is a free value (U23, log 4). -/
theorem step_freeTurn (noTurn : s.turns = []) :
    step s = step { s with turns := [Config.freeTurn s.draws], draws := s.draws + 1 } := by
  have taken : takeTurn s = takeTurn { s with turns := [Config.freeTurn s.draws], draws := s.draws + 1 } := by
    cases s
    cases noTurn
    rfl
  rw [step, step, stepTurn, stepTurn, taken]

end

/-- Settles O4, by whose turn it is and where that agent stands. -/
theorem stepRunsDecoded : Obligations.StepRunsDecoded := by
  intro s ts i admitted
  refine ⟨fun turn running => ⟨fun c k place decoded => ?call, step_stop admitted turn running,
    fun top notRaised decoded => ?read⟩,
    fun turn => ⟨fun c k place decoded => ?decoderCall, step_decoderIdle admitted turn⟩, step_freeTurn⟩
  case call => rw [step_pendingCall admitted turn running place, decoded, runFetched_ok]
  case read => rw [step_lineRead admitted turn running top notRaised, decoded, runFetched_ok]
  case decoderCall => rw [step_decoderCall admitted turn place, decoded, runFetched_ok]

/-- Settles O5: each clause is one case of the framer's selection (`decodeRaw`). -/
theorem workerStepSelects : Obligations.WorkerStepSelects := by
  intro s ts admitted turn running top
  refine ⟨step_stop admitted turn running top, fun notRaised _ => step_timeout admitted turn running top notRaised,
    fun notRaised b u read => ?_⟩
  rw [step_rawByte admitted turn running top notRaised read]
  refine ⟨fun fs notEsc => ?data, fun fs esc => ?esc, fun fs esc => ?litff, fun fs zero => ?mark,
    fun fs notZero notEsc => ?badesc, fun fs zero held => ?brk, fun fs zero empty => ?brk0, fun fs notZero => ?badmark⟩
  case data => rw [fs, decodeRaw_idle_data _ notEsc]
  case esc => rw [fs, esc, decodeRaw_idle_esc]
  case litff => rw [fs, esc, decodeRaw_esc1_esc]
  case mark => rw [fs, zero, decodeRaw_esc1_zero]
  case badesc => rw [fs, decodeRaw_esc1_bad _ notZero notEsc]
  case brk => rw [fs, zero, decodeRaw_break (Nat.one_le_iff_ne_zero.mp held)]
  case brk0 => rw [fs, zero, decodeRaw_break0 empty]
  case badmark => rw [fs, decodeRaw_esc2_bad _ notZero]

end Sys2Proof.Machine
end

section
/-! What the framer's operations and the two writes to the line leave (40_framer.md R131 to R141). -/

namespace Sys2Proof.Machine

/-! ### The receive buffer (R131, R133) -/

section

variable {s : State} (b : Byte)

theorem appendRx_of_room (room : s.frm.rxlen < 32) : appendRx b s =
    { s with frm := { s.frm with rxbuf := s.frm.rxbuf.set s.frm.rxlen b, rxlen := s.frm.rxlen + 1 } } :=
  if_pos room

theorem appendRx_of_full (full : 32 ≤ s.frm.rxlen) (first : s.frm.rxovf = false) :
    appendRx b s = raiseW .framerOverflow { s with frm := { s.frm with rxovf := true } } :=
  (if_neg (Nat.not_lt.mpr full)).trans (if_neg (Bool.eq_false_iff.mp first))

theorem appendRx_of_overflown (full : 32 ≤ s.frm.rxlen) (warned : s.frm.rxovf = true) : appendRx b s = s :=
  (if_neg (Nat.not_lt.mpr full)).trans (if_pos warned)

end

/-- Settles O9: both operations append their byte and go to `F_IDLE`, so the three cases are those of the buffer. -/
theorem framerAppends : Obligations.FramerAppends := by
  intro i b s op
  have appends : exec i s = .next (setFs .idle (appendRx b s)) := by
    obtain rfl | ⟨rfl, rfl⟩ := op <;> rfl
  rw [appends]
  refine ⟨fun room => ?room, fun full first => ?full, fun full warned => ?overflown⟩
  case room => rw [appendRx_of_room b room]; rfl
  case full => rw [appendRx_of_full b full first]; rfl
  case overflown => rw [appendRx_of_overflown b full warned]; rfl

/-! ### Escapes and BREAK -/

/-- Settles O10: each of the five writes of `FS` is a `setFs`, and `RX.TMO` is the identity. -/
theorem framerEscapes : Obligations.FramerEscapes := fun _ _ _ => ⟨rfl, rfl, rfl, rfl, rfl, rfl⟩

/-- Settles O11: the reset of the framer and the call of the arbiter are the whole of the operation's next state. -/
theorem framerBreak : Obligations.FramerBreak := fun _ => rfl

/-! ### The line (R140, R141) -/

/-- A byte written with Mark parity between two settings of the parity, from any parity before. -/
theorem lineWrite_marked (b : Byte) (s : State) :
    lineSetParity .normal (lineWrite b (lineSetParity .mark s)) = { s with
      lineOut := s.lineOut ++ [.setParity .mark, .write b .mark, .setParity .normal], parity := .normal } := by
  simp only [lineSetParity, lineWrite, List.append_assoc, List.cons_append, List.nil_append]

/-- Settles O12: `TXW.BREAK` needs no premise; `TXW.BYTE` writes under the parity in force, which is `Normal`. -/
theorem wireWrites : Obligations.WireWrites := by
  intro s b normal
  refine ⟨?byte, congrArg _ (lineWrite_marked 0x00 s)⟩
  case byte =>
    rw [← normal]
    rfl

end Sys2Proof.Machine
end

section
/-! The framer computes `Frame` (40_framer.md R143). `Frame` parses the whole raw sequence at once; `frameFrom` says what it
finds in the rest of one, after the piece so far and the raw bytes of the symbol that `FS` remembers. Each operation of the
framer follows one equation of `frameFrom`. -/

namespace Sys2Proof.Machine

/-! ### The parse, symbol by symbol (R91 to R96) -/

section

variable {b : Byte} (raw : List Byte)

theorem wireSymbols_data (notEsc : b ≠ escByte) : wireSymbols (b :: raw) = .data b :: wireSymbols raw := by
  match raw with
  | [] => exact if_neg notEsc
  | [_] => exact if_pos notEsc
  | _ :: _ :: _ => exact if_pos notEsc

theorem wireSymbols_litFf : wireSymbols (escByte :: escByte :: raw) = .litFf :: wireSymbols raw := by
  cases raw <;> rfl

theorem wireSymbols_badEsc (notZero : b ≠ 0x00) (notEsc : b ≠ escByte) :
    wireSymbols (escByte :: b :: raw) = .badEsc b :: wireSymbols raw := by
  cases raw <;> exact (if_neg notEsc).trans (if_neg notZero)

theorem wireSymbols_badMark (notZero : b ≠ 0x00) :
    wireSymbols (escByte :: 0x00 :: b :: raw) = .badMark b :: wireSymbols raw :=
  congrArg (· :: wireSymbols raw) (if_neg notZero)

end

/-! ### `Frame` from a state of the framer on -/

/-- The raw bytes of an incomplete symbol that `FS` stands for (R27). -/
def openedSymbol : FramerState → List Byte
  | .idle => []
  | .esc1 => [escByte]
  | .esc2 => [escByte, 0x00]

/-- The telegrams of the pieces, empty ones deleted and the others cut at the buffer's size. -/
def pieceTelegrams (pieces : List (List Byte)) : List Telegram :=
  (pieces.filter (fun p => !p.isEmpty)).map (List.take maxTelegram)

/-- The telegrams that `Frame` finds in raw bytes still to come, after the piece `acc` and the symbol that `fs` remembers. -/
def frameFrom (acc : List Byte) (fs : FramerState) (raw : List Byte) : List Telegram :=
  pieceTelegrams (piecesFrom acc (wireSymbols (openedSymbol fs ++ raw)))

theorem frameRef_eq_frameFrom (raw : List Byte) : frameRef raw = frameFrom [] .idle raw := rfl

section

variable {b : Byte} (acc raw : List Byte)

theorem frameFrom_nil (fs : FramerState) : frameFrom acc fs [] = [] := by cases fs <;> rfl

theorem frameFrom_data (notEsc : b ≠ escByte) : frameFrom acc .idle (b :: raw) = frameFrom (acc ++ [b]) .idle raw :=
  congrArg (pieceTelegrams <| piecesFrom acc ·) (wireSymbols_data raw notEsc)

theorem frameFrom_esc : frameFrom acc .idle (escByte :: raw) = frameFrom acc .esc1 raw := rfl

theorem frameFrom_litFf : frameFrom acc .esc1 (escByte :: raw) = frameFrom (acc ++ [escByte]) .idle raw :=
  congrArg (pieceTelegrams <| piecesFrom acc ·) (wireSymbols_litFf raw)

theorem frameFrom_mark : frameFrom acc .esc1 (0x00 :: raw) = frameFrom acc .esc2 raw := rfl

theorem frameFrom_badEsc (notZero : b ≠ 0x00) (notEsc : b ≠ escByte) :
    frameFrom acc .esc1 (b :: raw) = frameFrom acc .idle raw :=
  (congrArg (pieceTelegrams <| piecesFrom acc ·) (wireSymbols_badEsc raw notZero notEsc) :)

theorem frameFrom_badMark (notZero : b ≠ 0x00) : frameFrom acc .esc2 (b :: raw) = frameFrom acc .idle raw :=
  (congrArg (pieceTelegrams <| piecesFrom acc ·) (wireSymbols_badMark raw notZero) :)

theorem frameFrom_emptyBreak : frameFrom [] .esc2 (0x00 :: raw) = frameFrom [] .idle raw := rfl

variable {acc}

theorem frameFrom_break (nonempty : acc ≠ []) :
    frameFrom acc .esc2 (0x00 :: raw) = acc.take maxTelegram :: frameFrom [] .idle raw := by
  cases acc with
  | nil => exact absurd rfl nonempty
  | cons => rfl

end

/-! ### What the framer holds -/

/-- The buffer after a byte is written behind its first `n` bytes (R131). -/
theorem take_set_succ {l : List Byte} {n : Nat} (b : Byte) (inside : n < l.length) :
    (l.set n b).take (n + 1) = l.take n ++ [b] := by
  rw [List.take_add_one, List.take_set_of_le (Nat.le_refl n), List.getElem?_set_self inside, Option.toList_some]

/-- At the top of `WorkerStep`, the receive buffer holds the piece `acc` as far as it fits. -/
structure HoldsPiece (acc : List Byte) (s : State) : Prop where
  size : s.frm.rxbuf.length = maxTelegram
  count : s.frm.rxlen = (acc.take maxTelegram).length
  held : rxTelegram s = acc.take maxTelegram
  top : s.wctl = []

namespace HoldsPiece

variable {acc : List Byte} {s : State}

theorem of_empty (size : s.frm.rxbuf.length = maxTelegram) (empty : s.frm.rxlen = 0) (top : s.wctl = []) :
    HoldsPiece [] s :=
  ⟨size, empty, by rw [rxTelegram, empty]; rfl, top⟩

theorem rxlen_eq_zero_iff (h : HoldsPiece acc s) : s.frm.rxlen = 0 ↔ acc = [] := by
  rw [h.count, List.length_eq_zero_iff, List.take_eq_nil_iff]
  simp

/-- The framer's state is no part of the piece. -/
theorem setFs (h : HoldsPiece acc s) (f : FramerState) : HoldsPiece acc (setFs f s) :=
  ⟨h.size, h.count, h.held, h.top⟩

/-- A byte with room goes to the end of the piece; past the buffer's size the piece is cut, so a further byte is no part of
what is held (R131, R133). -/
theorem appendRx (h : HoldsPiece acc s) (b : Byte) : HoldsPiece (acc ++ [b]) (appendRx b s) := by
  obtain ⟨size, count, held, top⟩ := h
  have length : s.frm.rxlen = min maxTelegram acc.length := count.trans List.length_take
  have cut (full : maxTelegram ≤ s.frm.rxlen) : (acc ++ [b]).take maxTelegram = acc.take maxTelegram :=
    List.take_append_of_le_length (by omega)
  obtain ⟨room, next⟩ | ⟨full, -, next⟩ | ⟨full, -, next⟩ := appendRx_cases b s <;> rw [next]
  · have short : acc.length < maxTelegram := by omega
    have fits : (acc ++ [b]).take maxTelegram = acc.take maxTelegram ++ [b] := by
      rw [List.take_of_length_le (List.length_append.trans_le short), List.take_of_length_le short.le]
    refine ⟨List.length_set.trans size, ?_, ?_, top⟩
    · rw [fits, List.length_append, ← count]
      rfl
    · rw [fits, ← held]
      exact take_set_succ b (room.trans_eq size.symm)
  · exact ⟨size, by rw [cut full, count], by rw [cut full, held], top⟩
  · exact ⟨size, by rw [cut full]; exact count, by rw [cut full]; exact held, top⟩

end HoldsPiece

/-! ### The framer over raw bytes -/

/-- The state after `RX.BREAK` once its call of `OnTelegram` is taken from it. -/
def delivered (s : State) : State :=
  { s with frm := { s.frm with rxlen := 0, rxovf := false, fs := .idle, heartbeat := some s.now }, wctl := [] }

section

variable {s u : State} {b : Byte} (raw : List Byte)

/-- An operation that calls nothing delivers no telegram. -/
theorem framerTelegrams_of_noCall (op : exec (decodeRaw s.frm.fs (s.frm.rxlen == 0) b) s = .next u) (top : u.wctl = []) :
    framerTelegrams s (b :: raw) = framerTelegrams u raw := by
  rw [framerTelegrams, op]
  simp only [top]

/-- `RX.BREAK` on a buffer that holds bytes delivers them, and the framer goes on at rest (R136). -/
theorem framerTelegrams_break (fs : s.frm.fs = .esc2) (nonempty : s.frm.rxlen ≠ 0) :
    framerTelegrams s (0x00 :: raw) = (framerTelegrams (delivered s) raw).map (rxTelegram s :: ·) := by
  rw [framerTelegrams, fs, decodeRaw_break nonempty, framerBreak]
  rfl

end

/-- The framer, from any of its states and with any piece held, delivers what `Frame` finds from there on. -/
theorem framerTelegrams_eq_frameFrom {s : State} {acc : List Byte} (h : HoldsPiece acc s) (raw : List Byte) :
    framerTelegrams s raw = some (frameFrom acc s.frm.fs raw) := by
  induction raw generalizing s acc with
  | nil => rw [frameFrom_nil]; rfl
  | cons b raw ih =>
    have noCall {u : State} {piece : List Byte} {i : Instr} (selected : decodeRaw s.frm.fs (s.frm.rxlen == 0) b = i)
        (op : exec i s = .next u) (hu : HoldsPiece piece u) :
        framerTelegrams s (b :: raw) = some (frameFrom piece u.frm.fs raw) :=
      (framerTelegrams_of_noCall raw (selected ▸ op) hu.top).trans (ih hu)
    cases fs : s.frm.fs with
    | idle =>
      rw [fs] at noCall
      obtain rfl | notEsc := eq_or_ne b escByte
      · rw [frameFrom_esc]
        exact noCall (decodeRaw_idle_esc _) rfl (h.setFs .esc1)
      · rw [frameFrom_data acc raw notEsc]
        exact noCall (decodeRaw_idle_data _ notEsc) rfl ((h.appendRx b).setFs .idle)
    | esc1 =>
      rw [fs] at noCall
      obtain rfl | notEsc := eq_or_ne b escByte
      · rw [frameFrom_litFf]
        exact noCall (decodeRaw_esc1_esc _) rfl ((h.appendRx escByte).setFs .idle)
      obtain rfl | notZero := eq_or_ne b 0x00
      · rw [frameFrom_mark]
        exact noCall (decodeRaw_esc1_zero _) rfl (h.setFs .esc2)
      · rw [frameFrom_badEsc acc raw notZero notEsc]
        exact noCall (decodeRaw_esc1_bad _ notZero notEsc) rfl (h.setFs .idle)
    | esc2 =>
      rw [fs] at noCall
      obtain rfl | notZero := eq_or_ne b 0x00
      · obtain rfl | nonempty := eq_or_ne acc []
        · rw [frameFrom_emptyBreak]
          exact noCall (decodeRaw_break0 (h.rxlen_eq_zero_iff.mpr rfl)) rfl (h.setFs .idle)
        · have rest : framerTelegrams (delivered s) raw = some (frameFrom [] .idle raw) := ih (.of_empty h.size rfl rfl)
          rw [framerTelegrams_break raw fs (mt h.rxlen_eq_zero_iff.mp nonempty), rest, frameFrom_break raw nonempty, ← h.held]
          rfl
      · rw [frameFrom_badMark acc raw notZero]
        exact noCall (decodeRaw_esc2_bad _ notZero) rfl (h.setFs .idle)

/-- Settles O13: a framer at rest holds the empty piece, and `Frame` is `frameFrom` from there. -/
theorem framerIsFrame : Obligations.FramerIsFrame := by
  intro s raw idle empty _ size top
  rw [framerTelegrams_eq_frameFrom (.of_empty size empty top), idle, frameRef_eq_frameFrom]

end Sys2Proof.Machine
end

section
/-! The arbiter's tests and shared updates in the terms of the rules (41_arbiter.md R161 to R169): what each boolean test says of
the values it compares, and what a MAC check and a call of `TxInvoke` leave. -/

namespace Sys2Proof

/-- `T[0] = POLLED` compares the byte's number with the id's (R274). -/
theorem polledIs_iff {polled : Option DevId} {b : Byte} :
    polledIs polled b = true ↔ polled.map BitVec.toNat = some b.toNat := by
  cases polled with
  | none => simp [polledIs]
  | some id =>
    have widened : (id.setWidth 8).toNat = id.toNat := BitVec.toNat_setWidth_of_le (by decide)
    simp only [polledIs, Option.map_some, beq_iff_eq, Option.some.injEq, ← BitVec.toNat_inj, widened]

theorem polledIs_eq_false_iff {polled : Option DevId} {b : Byte} :
    polledIs polled b = false ↔ polled.map BitVec.toNat ≠ some b.toNat :=
  Bool.eq_false_iff.trans (not_congr polledIs_iff)

theorem validSrc_iff {a : Byte} : validSrc a = true ↔ 0x08 ≤ a.toNat ∧ a.toNat ≤ 0x7F := by
  simp only [validSrc, Bool.and_eq_true, decide_eq_true_eq, BitVec.le_def]
  rfl

theorem validDst_iff {d : Byte} : validDst d = true ↔
    d.toNat = 0x00 ∨ (0x08 ≤ d.toNat ∧ d.toNat ≤ 0x7F) ∨ (0x88 ≤ d.toNat ∧ d.toNat ≤ 0xFF) := by
  have byte : d.toNat ≤ 0xFF := Nat.le_of_lt_succ d.isLt
  simp only [validDst, Bool.or_eq_true, Bool.and_eq_true, beq_iff_eq, decide_eq_true_eq, BitVec.le_def, ← BitVec.toNat_inj,
    byte, and_true, or_assoc]
  rfl

theorem decodeDest_eq (t : Telegram) : decodeDest t = if 0x80 ≤ (byteAt t 1).toNat then .dataReadreq t
    else if 0x08 ≤ (byteAt t 1).toNat then .dataWrite t else .dataBcast t := by
  simp only [decodeDest, bit7_iff, BitVec.le_def]
  rfl

theorem decodeMac_eq (v : Byte) : decodeMac v = if v = 0x01 then .macAck
    else if 0x08 ≤ v.toNat ∧ v.toNat ≤ 0x7F then .macRel v
    else if 0x80 ≤ v.toNat then .macAssign (v.setWidth 7) else .macRsvd v := by
  simp only [decodeMac, devIdOf, bit7_iff, BitVec.le_def]
  rfl

/-- Without a preemption the event goes on with the case on `BS` (R167). -/
theorem decodeEvent_of_valid {c : Cfg} {bs : BusState} {polled : Option DevId} {m : Bool} {t : Telegram}
    (src : validSrc (byteAt t 0) = true) (dst : validDst (byteAt t 1) = true)
    (goesOn : byteAt t 0 ≠ c.masterId ∨ m = true) : decodeEvent c bs polled m t = decodeCase c bs polled m t := by
  have notPreempted : ¬ (byteAt t 0 = c.masterId ∧ m = false) := fun ⟨master, mismatch⟩ =>
    goesOn.elim (· master) fun matched => by rw [mismatch] at matched; cases matched
  rw [decodeEvent, if_neg (by simp only [src, dst]; decide), if_neg notPreempted]

theorem decodeCase_released (c : Cfg) (polled : Option DevId) (m : Bool) (t : Telegram) :
    decodeCase c .released polled m t = if byteAt t 0 ≠ c.masterId then .dataUnassigned t else .dataClassify t := rfl

theorem decodeCase_assigned (c : Cfg) (polled : Option DevId) (m : Bool) (t : Telegram) :
    decodeCase c .assigned polled m t =
      if polled.map BitVec.toNat ≠ some (byteAt t 0).toNat ∧ byteAt t 0 ≠ c.masterId then .dataWrongsender t
      else .dataClassify t := by
  simp only [decodeCase, polledIs_eq_false_iff]

theorem decodeCase_read (c : Cfg) (polled : Option DevId) (m : Bool) (t : Telegram) :
    decodeCase c .read polled m t = .dataReadresp t m := rfl

theorem decodeCase_wrote (c : Cfg) (polled : Option DevId) (m : Bool) (t : Telegram) :
    decodeCase c .wrote polled m t = .dataInwrote t := rfl

end Sys2Proof

namespace Sys2Proof.Machine

variable (s : State)

theorem ownBus_iff : ownBus s = true ↔ s.arb.polled.map BitVec.toNat = some s.cfg.ownId.toNat := polledIs_iff

theorem holdsBus_iff : holdsBus s = true ↔
    s.arb.bs = .assigned ∧ s.arb.polled.map BitVec.toNat = some s.cfg.ownId.toNat := by
  rw [holdsBus, Bool.and_eq_true, beq_iff_eq, ownBus_iff]

theorem hdrMatch_iff (a : Arbiter) (t : Telegram) : hdrMatch a t = true ↔ a.bs = .read ∧ byteAt t 0 = a.rdexp.src ∧
    byteAt t 1 = a.rdexp.dst ∧ byteAt t 2 = a.rdexp.typ ∧ byteAt t 3 = a.rdexp.b3 := by
  rw [hdrMatch, Bool.and_eq_true, beq_iff_eq, beq_iff_eq, headerOf, ← Header.mk.injEq]

theorem invokeIfOwn_eq : invokeIfOwn s = { s with
    wctl := if s.arb.polled.map BitVec.toNat = some s.cfg.ownId.toNat then .op .txInvoke :: s.wctl else s.wctl } := by
  cases own : ownBus s with
  | true => rw [invokeIfOwn_of_own own, if_pos ((ownBus_iff s).mp own)]; rfl
  | false => rw [invokeIfOwn_of_other own, if_neg (mt (ownBus_iff s).mpr (by simp [own]))]

/-- What a MAC check leaves, where `valid` says of the prior state what `p` says (R161 to R163). -/
theorem macCheck_eq {valid : Bool} {p : Prop} [Decidable p] (means : valid = true ↔ p) (k : MacCause) (v : Byte) :
    macCheck valid k v s = { s with
      stats := { s.stats with macErr := s.stats.macErr + (if p then 0 else 1) },
      wlog := s.wlog ++ (if p then [] else [.macErr k v s.arb.bs]) } := by
  cases valid with
  | true => rw [macCheck_true, if_pos (means.mp rfl), if_pos (means.mp rfl), List.append_nil]; rfl
  | false =>
    have not : ¬ p := fun h => nomatch means.mpr h
    rw [macCheck_false, if_neg not, if_neg not]
    rfl

end Sys2Proof.Machine
end

section
/-! The arbiter's operations one by one: dispatch by length, the four MAC events, the data operations (41_arbiter.md R160 to
R179). -/

namespace Sys2Proof.Machine

/-! ### Dispatch and MAC events (R160 to R166) -/

/-- Settles O14: the telegram's length and the control byte's value decide at each of the three points. -/
theorem telegramDispatch : Obligations.TelegramDispatch := by
  intro s v t two fit
  refine ⟨rfl, decode_telegram_long two fit, rfl, congrArg _ (decodeMac_eq v), rfl, ?long, rfl⟩
  case long =>
    split
    · next short => exact decode_long_short two short
    · next long => exact decode_long_data (isDataLen_iff.mpr ⟨Nat.le_of_not_lt long, fit⟩)

/-- The bus is given to `id`; if that is us the time is taken and `TxInvoke` called (R163). -/
theorem assignBus_eq (id : DevId) (s : State) :
    (if ownBus (assignBus id s) then .next (callW [.op .txInvoke] (stampAcqTime (assignBus id s)))
      else .next (assignBus id s) : Res) = .next { assignBus id s with
        tx := { s.tx with acqTime := if id.toNat = s.cfg.ownId.toNat then s.now else s.tx.acqTime }
        wctl := if id.toNat = s.cfg.ownId.toNat then .op .txInvoke :: s.wctl else s.wctl } := by
  have ours : ownBus (assignBus id s) = true ↔ id.toNat = s.cfg.ownId.toNat := (ownBus_iff _).trans Option.some_inj
  by_cases own : id.toNat = s.cfg.ownId.toNat
  · rw [if_pos (ours.mpr own), if_pos own, if_pos own]; rfl
  · rw [if_neg (mt ours.mp own), if_neg own, if_neg own]; rfl

/-- Settles O15: each event is its MAC check, its write of the arbiter's state and, for ACK and ASSIGN, the call of `TxInvoke`. -/
theorem macEvents : Obligations.MacEvents := by
  intro s v id
  refine ⟨?ack, ?rel, (assignBus_eq id (macCheck _ _ _ s)).trans ?assign, rfl⟩
  case ack =>
    rw [exec, execMacAck, macCheck_eq s beq_iff_eq, invokeIfOwn_eq]
    rfl
  case rel =>
    rw [exec, execMacRel, macCheck_eq s beq_iff_eq]
    rfl
  case assign =>
    have valid : (s.arb.bs == .released || s.arb.bs == .assigned) = true ↔ s.arb.bs = .released ∨ s.arb.bs = .assigned := by
      rw [Bool.or_eq_true, beq_iff_eq, beq_iff_eq]
    rw [macCheck_eq s valid]
    rfl

/-! ### Data operations (R167 to R179) -/

/-- Settles O17: the length guard is met, and each drop is its event and its counter. -/
theorem dataDrops : Obligations.DataDrops := fun _ _ six =>
  ⟨fun _ _ => ⟨validSrc_iff, validDst_iff⟩,
    need_of_le _ six, need_of_le _ six, need_of_le _ six, need_of_le _ six⟩

/-- Settles O18: the checks in their order, at the point of the event and at the case on `BS`. -/
theorem dataOrder : Obligations.DataOrder := by
  intro s t six fit
  have data : isDataLen t = true := isDataLen_iff.mpr ⟨six, fit⟩
  have matched : hdrMatch s.arb t = decide (s.arb.bs = .read ∧ byteAt t 0 = s.arb.rdexp.src ∧
      byteAt t 1 = s.arb.rdexp.dst ∧ byteAt t 2 = s.arb.rdexp.typ ∧ byteAt t 3 = s.arb.rdexp.b3) :=
    Bool.eq_iff_iff.mpr ((hdrMatch_iff s.arb t).trans decide_eq_true_iff.symm)
  refine ⟨matched ▸ need_of_le _ six, need_of_le _ six, fun m => ?_⟩
  rw [decode_event data, decode_case data]
  refine ⟨fun bad => ?address, fun src dst => ⟨fun master mismatch => ?preempt, fun goesOn => ?goesOn⟩,
    fun released => ?released, fun assigned => ?assigned, fun read => ?read, fun wrote => ?wrote⟩
  case address => rw [decodeEvent_of_badAddress bad]
  case preempt => rw [mismatch, decodeEvent_of_preempted src dst master]
  case goesOn => rw [decodeEvent_of_valid src dst goesOn]
  case released => rw [released, decodeCase_released]
  case assigned => rw [assigned, decodeCase_assigned]
  case read => rw [read, decodeCase_read]
  case wrote => rw [wrote, decodeCase_wrote]

/-- Settles O19: by the destination byte, and each class's write. -/
theorem dataClasses : Obligations.DataClasses := fun _ t six fit =>
  ⟨need_of_le _ six, (decode_dest (isDataLen_iff.mpr ⟨six, fit⟩)).trans (congrArg _ (decodeDest_eq t)), need_of_le _ six,
    need_of_le _ six, need_of_le _ six⟩

/-- Settles O20: on a match `DATA.ACCEPT` goes in front of the call of `TxInvoke`. -/
theorem readResponse : Obligations.ReadResponse := by
  intro s t six
  refine ⟨(need_of_le _ six).trans ?matched, need_of_le _ six⟩
  case matched => rw [if_pos rfl, invokeIfOwn_eq]; rfl

/-- Settles O21: a data telegram is a packet `QPush` admits, so it is counted and pushed. -/
theorem dataAccepted : Obligations.DataAccepted := by
  intro s t six fit
  have packet : packetOk t = true := packetOk_of_isDataLen (isDataLen_iff.mpr ⟨six, fit⟩)
  refine (if_pos packet).trans ?_
  rw [pushIn, qPush_snd]
  rfl

end Sys2Proof.Machine
end

section
/-! The table of the MAC events (41_arbiter.md R181): the rows by class, then the two steps that lead to them. -/

namespace Sys2Proof.Machine

/-! ### The rows -/

section

variable (bs : BusState) (polled : Option DevId)

theorem macTable_ack : macTable .ack bs polled = (decide (bs ≠ .wrote), .assigned, polled) := by cases bs <;> rfl

theorem macTable_release : macTable .release bs polled = (decide (bs ≠ .assigned), .released, none) := by
  cases bs <;> rfl

theorem macTable_assign (id : DevId) : macTable (.assign id) bs polled =
    (decide (¬ (bs = .released ∨ bs = .assigned)), .assigned, some id) := by cases bs <;> rfl

theorem macTable_reserved : macTable .reserved bs polled = (true, bs, polled) := by cases bs <;> rfl

end

/-- The state that the row of a control byte `v` of class `k` leads to, with its report, `ACQ_TIME` and the call of `TxInvoke`
(R161 to R164, R181). -/
def macRow (k : MacClass) (v : Byte) (s : State) : State :=
  let row := macTable k s.arb.bs s.arb.polled
  let ours : Bool := decide (row.2.2.map BitVec.toNat = some s.cfg.ownId.toNat)
  { s with
    wctl := if (v = 0x01 ∨ 0x80 ≤ v.toNat) ∧ ours = true then .op .txInvoke :: s.wctl else s.wctl
    arb := { s.arb with bs := row.2.1, polled := row.2.2 }
    tx := { s.tx with acqTime := if 0x80 ≤ v.toNat ∧ ours = true then s.now else s.tx.acqTime }
    stats := { s.stats with macErr := s.stats.macErr + if row.1 then 1 else 0 }
    wlog := s.wlog ++ if row.1 then [.macErr (macClassCause k) v s.arb.bs] else [] }

/-- The MAC event of a control byte leads to the byte's row, class by class. -/
theorem exec_macClass_instr {k : MacClass} {v : Byte} (value : k.Holds v.toNat) (s : State) :
    exec (k.instr v) s = .next (macRow k v s) := by
  cases k with
  | ack =>
    obtain ⟨ack, -⟩ := macEvents s v 0
    obtain rfl : v = 0x01 := BitVec.eq_of_toNat_eq value
    refine ack.trans ?_
    simp [macRow, macTable_ack, macClassCause]
  | release =>
    obtain ⟨-, rel, -⟩ := macEvents s v 0
    obtain ⟨-, hi⟩ := value
    refine rel.trans ?_
    simp [macRow, macTable_release, macClassCause, Nat.not_le_of_lt hi]
  | assign id =>
    obtain ⟨-, -, assign, -⟩ := macEvents s v id
    have byte : 0x80 ||| id.setWidth 8 = v := BitVec.eq_of_toNat_eq ((assignByte_toNat id).trans value.symm)
    have high : 0x80 ≤ v.toNat := Nat.le.intro value.symm
    refine assign.trans ?_
    rw [byte]
    simp only [macRow, macTable_assign, macClassCause, high, or_true, true_and, Option.map_some, Option.some.injEq,
      decide_eq_true_eq, ite_not]
  | reserved =>
    obtain ⟨-, -, -, rsvd⟩ := macEvents s v 0
    obtain ⟨low, notOne⟩ := value
    have notAck : v ≠ 1#8 := by rintro rfl; exact notOne rfl
    refine rsvd.trans ?_
    simp [macRow, macTable_reserved, macClassCause, notAck, Nat.not_le_of_lt (low.trans (by decide : 8 < 128))]

/-! ### The steps -/

/-- A step at a pending call and the `n` steps after it. -/
theorem run_call (n : Nat) {s u : State} {ts : List Turn} {c : Ctl} {k : List Ctl} {i : Instr}
    (admitted : configOk s.cfg = true) (running : s.stopped = false) (turn : s.turns = .worker :: ts)
    (place : s.wctl = c :: k) (decoded : decode s.cfg (ctlPoint s c).1 (ctlPoint s c).2.1 = .ok i)
    (executed : exec i { s with turns := ts, wctl := (ctlPoint s c).2.2 ++ k } = .next u) :
    Sys2Proof.core.run (n + 1) s = Sys2Proof.core.run n u := by
  obtain ⟨atCall, -⟩ := (stepRunsDecoded s ts i admitted).1 turn running
  exact run_succ n ((atCall c k place decoded).trans executed)

/-- Settles O16: `TG.MAC`, then the event of the control byte's class. -/
theorem macTable_reached : Obligations.MacTable := by
  intro s v ts admitted running place turns
  have event : exec (decodeMac v) { s with turns := ts, wctl := [] } =
      .next (macRow (macClass v) v { s with turns := ts, wctl := [] }) := by
    rw [decodeMac_of_holds (macClass_holds v), exec_macClass_instr (macClass_holds v)]
  calc Sys2Proof.core.run 2 s
    _ = Sys2Proof.core.run 1 _ := run_call 1 admitted running turns place rfl rfl
    _ = Sys2Proof.core.run 0 _ := run_call 0 admitted running rfl rfl rfl event
    _ = _ := rfl

end Sys2Proof.Machine
end

section
/-! The table of the data telegrams (41_arbiter.md R182): the rows, and the steps that lead to each: from the telegram to its event,
by the event to a drop or an acceptance, and from an acceptance to `INQ`. -/

namespace Sys2Proof.Machine

/-! ### The rows -/

section

variable {master : Byte} {a : Arbiter} {m : Bool} {t : Telegram}

/-- A telegram from the master that answers no read request is accepted from `Released` in every state (R170). -/
theorem dataTable_of_master (src : byteAt t 0 = master) :
    dataTable master a false t = (.rxSuccess, classState (byteAt t 1) .released, none, true) := by
  cases bs : a.bs <;> simp [dataTable, bs, src]

theorem dataTable_of_match (read : a.bs = .read) : dataTable master a true t = (.rxSuccess, .assigned, a.polled, true) := by
  simp [dataTable, read]

theorem dataTable_of_mismatch (read : a.bs = .read) (src : byteAt t 0 ≠ master) :
    dataTable master a false t = (.rxFormat, .assigned, a.polled, false) := by
  simp [dataTable, read, src]

theorem dataTable_of_unassigned (released : a.bs = .released) (src : byteAt t 0 ≠ master) :
    dataTable master a m t = (.rxSender, a.bs, a.polled, false) := by
  simp [dataTable, released, src]

theorem dataTable_of_wrongSender (assigned : a.bs = .assigned) (src : byteAt t 0 ≠ master)
    (other : polledIs a.polled (byteAt t 0) = false) :
    dataTable master a m t = (.rxSender, a.bs, a.polled, false) := by
  simp [dataTable, assigned, src, other]

theorem dataTable_of_sender (assigned : a.bs = .assigned) (src : byteAt t 0 ≠ master)
    (sender : polledIs a.polled (byteAt t 0) = true) :
    dataTable master a m t = (.rxSuccess, classState (byteAt t 1) a.bs, a.polled, true) := by
  simp [dataTable, assigned, src, sender]

theorem dataTable_of_wrote (wrote : a.bs = .wrote) (src : byteAt t 0 ≠ master) :
    dataTable master a m t = (.rxSender, a.bs, a.polled, false) := by
  simp [dataTable, wrote, src]

end

/-! ### From the telegram to its event, and from the class to `INQ` -/

/-- The state at the event of a data telegram `t`: it is counted, and its header compared with the awaited one (R165, R167). -/
def atEvent (t : Telegram) (ts : List Turn) (s : State) : State :=
  { s with turns := ts, wctl := [.event t (hdrMatch s.arb t)], stats := statsInc .rxTotal s.stats }

/-- The state in which the operation that the event selects runs: three of the six turns are taken. -/
def inEvent (t : Telegram) (ts : List Turn) (s : State) : State :=
  { atEvent t (List.replicate 3 .worker ++ ts) s with wctl := [] }

/-- The state after a telegram's acceptance: `BS` is that of its class, and it is counted and pushed (R173 to R176, R179). -/
def accepted (t : Telegram) (rdexp : Header) (s : State) : State :=
  pushIn t (count .rxSuccess { s with arb := ⟨classState (byteAt t 1) s.arb.bs, s.arb.polled, rdexp⟩ })

section

variable {s : State} {t : Telegram} {ts : List Turn}

theorem run_toEvent (admitted : configOk s.cfg = true) (running : s.stopped = false) (data : isDataLen t = true)
    (place : s.wctl = [.telegram t]) (turns : s.turns = .worker :: .worker :: ts) :
    Sys2Proof.core.run 2 s = .next (atEvent t ts s) := by
  obtain ⟨six, fit⟩ := isDataLen_iff.mp data
  calc Sys2Proof.core.run 2 s
    _ = Sys2Proof.core.run 1 _ :=
      run_call 1 admitted running turns place (decode_telegram_long (Nat.le_trans (by decide) six) fit) rfl
    _ = Sys2Proof.core.run 0 _ := run_call 0 admitted running rfl rfl (decode_long_data data) (need_of_le _ six)
    _ = _ := rfl

/-- The class of an accepted telegram writes `BS`, and for a read request the header awaited (R173 to R176). -/
theorem exec_decodeDest (data : isDataLen t = true) : ∃ r, exec (decodeDest t) s =
    .next { s with arb := ⟨classState (byteAt t 1) s.arb.bs, s.arb.polled, r⟩ } := by
  obtain ⟨six, fit⟩ := isDataLen_iff.mp data
  obtain ⟨-, -, readreq, write, bcast⟩ := dataClasses s t six fit
  rw [decodeDest_eq, classState]
  split
  · exact ⟨_, readreq⟩
  · split
    · exact ⟨s.arb.rdexp, write⟩
    · exact ⟨s.arb.rdexp, bcast⟩

theorem exec_dataAccept (data : isDataLen t = true) : exec (.dataAccept t) s = .next (pushIn t (count .rxSuccess s)) :=
  if_pos (packetOk_of_isDataLen data)

/-- After `DATA.CLASSIFY`, in a state `v`, two steps end the handling of the telegram. -/
theorem run_accept {n : Nat} {v : State}
    (classified : Sys2Proof.core.run n s = .next (callW [.dest t, .op (.dataAccept t)] v))
    (admitted : configOk v.cfg = true) (running : v.stopped = false) (data : isDataLen t = true) (top : v.wctl = [])
    (turns : v.turns = .worker :: .worker :: ts) :
    ∃ r, Sys2Proof.core.run (n + 2) s = .next (accepted t r { v with turns := ts }) := by
  obtain ⟨r, dest⟩ := exec_decodeDest (s := { v with turns := .worker :: ts, wctl := [.op (.dataAccept t)] }) data
  refine ⟨r, (run_add n 2 classified).trans ?_⟩
  have place : (callW [.dest t, .op (.dataAccept t)] v).wctl = [.dest t, .op (.dataAccept t)] := callW_wctl_eq top
  calc Sys2Proof.core.run 2 (callW [.dest t, .op (.dataAccept t)] v)
    _ = Sys2Proof.core.run 1 _ := run_call 1 admitted running turns place (decode_dest data) dest
    _ = Sys2Proof.core.run 0 _ := run_call 0 admitted running rfl rfl rfl (exec_dataAccept data)
    _ = .next (accepted t r { v with turns := ts, wctl := [] }) := rfl
    _ = _ := by rw [← top]

end

/-! ### What a row says of the state it leads to -/

/-- The counters, `BS` and `POLLED` are the row's, the telegram is pushed or reported once, the worker stands at `next`, and
the rest of its record is as it was (R182). -/
def RowReached (s : State) (t : Telegram) (row : Counter × BusState × Option DevId × Bool) (next : List Ctl) (u : State) :
    Prop :=
  u.stats = statsInc row.1 { s.stats with rxTotal := s.stats.rxTotal + 1 } ∧
    u.arb.bs = row.2.1 ∧ u.arb.polled = row.2.2.1 ∧
    u.inq = (if row.2.2.2 ∧ s.inq.length < 32 then s.inq ++ [t] else s.inq) ∧
    u.wlog.length = s.wlog.length + (if row.2.2.2 then 0 else 1) ∧ u.wctl = next ∧
    u.frm = s.frm ∧ u.tx = s.tx ∧ u.outq = s.outq ∧ u.store = s.store ∧ u.lineOut = s.lineOut ∧ u.line = s.line

/-- At most six steps lead to the row. -/
def LeadsTo (s : State) (t : Telegram) (row : Counter × BusState × Option DevId × Bool) (next : List Ctl) : Prop :=
  ∃ (n : Nat) (u : State), n ≤ 6 ∧ Sys2Proof.core.run n s = .next u ∧ RowReached s t row next u

section

variable {s : State} {t : Telegram} {ts : List Turn}

theorem rowReached_of_dropped {c : Counter} {e : Event} {b : BusState} :
    RowReached s t (c, b, s.arb.polled, false) []
      (setBs b (count c (raiseW e (inEvent t ts s)))) := by
  refine ⟨rfl, rfl, rfl, ?_, List.length_append, rfl, rfl, rfl, rfl, rfl, rfl, rfl⟩
  simp [inEvent, atEvent]

theorem rowReached_of_pushed {p : Option DevId} {b : BusState} {r : Header} {next : List Ctl} :
    RowReached s t (.rxSuccess, b, p, true) next
      (pushIn t (count .rxSuccess { atEvent t ts s with wctl := next, arb := ⟨b, p, r⟩ })) := by
  refine ⟨rfl, rfl, rfl, ?_, rfl, rfl, rfl, rfl, rfl, rfl, rfl, rfl⟩
  simp [atEvent, qPush_snd]

/-! ### The paths -/

variable (admitted : configOk s.cfg = true) (running : s.stopped = false) (data : isDataLen t = true)
  (src : validSrc (byteAt t 0) = true) (dst : validDst (byteAt t 1) = true)
  (place : s.wctl = [.telegram t]) (turns : s.turns = List.replicate 6 .worker ++ ts)

include admitted running data place turns

/-- The first three steps of every path: the telegram, its length, and the operation its event selects. -/
theorem run_event {i : Instr} {u : State} (event : decodeEvent s.cfg s.arb.bs s.arb.polled (hdrMatch s.arb t) t = i)
    (executed : exec i (inEvent t ts s) = .next u) :
    Sys2Proof.core.run 3 s = .next u := by
  refine (run_add 2 1 (run_toEvent admitted running data place turns)).trans ?_
  exact run_call 0 (s := atEvent t _ s) admitted running rfl rfl ((decode_event data ..).trans (congrArg _ event)) executed

/-- A drop is reported and counted, and ends the handling. -/
theorem leadsTo_of_dropped {i : Instr} {c : Counter} {e : Event} {b : BusState}
    (event : decodeEvent s.cfg s.arb.bs s.arb.polled (hdrMatch s.arb t) t = i)
    (executed : exec i (inEvent t ts s) = .next (setBs b (count c (raiseW e (inEvent t ts s))))) :
    LeadsTo s t (c, b, s.arb.polled, false) [] :=
  ⟨3, _, by decide, run_event admitted running data place turns event executed, rowReached_of_dropped⟩

/-- The polled sender's telegram is classified and accepted. -/
theorem leadsTo_of_classified (event : decodeEvent s.cfg s.arb.bs s.arb.polled (hdrMatch s.arb t) t = .dataClassify t) :
    LeadsTo s t (.rxSuccess, classState (byteAt t 1) s.arb.bs, s.arb.polled, true) [] := by
  obtain ⟨six, -⟩ := isDataLen_iff.mp data
  have classify := run_event admitted running data place turns event (need_of_le _ six)
  obtain ⟨r, accept⟩ := run_accept classify admitted running data rfl rfl
  exact ⟨5, _, by decide, accept, rowReached_of_pushed⟩

/-- The master's telegram preempts, then it is classified and accepted from `Released` (R170). -/
theorem leadsTo_of_preempted (master : byteAt t 0 = s.cfg.masterId)
    (event : decodeEvent s.cfg s.arb.bs s.arb.polled (hdrMatch s.arb t) t = .dataPreempt t) :
    LeadsTo s t (.rxSuccess, classState (byteAt t 1) .released, none, true) [] := by
  obtain ⟨six, -⟩ := isDataLen_iff.mp data
  have selected : decodeCase s.cfg .released none false t = .dataClassify t := if_neg (not_not.mpr master)
  have preempt := run_event admitted running data place turns event (need_of_le _ six)
  have classify := (run_add 3 1 preempt).trans (run_call 0 admitted running rfl rfl
    ((decode_case data ..).trans (congrArg _ selected)) (need_of_le _ six))
  obtain ⟨r, accept⟩ := run_accept classify admitted running data rfl rfl
  exact ⟨6, _, by decide, accept, rowReached_of_pushed⟩

/-- The awaited response is accepted, and `TxInvoke` runs after it if the bus is ours (R177). -/
theorem leadsTo_of_response
    (event : decodeEvent s.cfg s.arb.bs s.arb.polled (hdrMatch s.arb t) t = .dataReadresp t true) :
    LeadsTo s t (.rxSuccess, .assigned, s.arb.polled, true)
      (if s.arb.polled.map BitVec.toNat = some s.cfg.ownId.toNat then [.op .txInvoke] else []) := by
  obtain ⟨six, -⟩ := isDataLen_iff.mp data
  obtain ⟨matched, -⟩ := readResponse (inEvent t ts s) t six
  have respond := run_event admitted running data place turns event matched
  exact ⟨4, _, by decide, (run_add 3 1 respond).trans
    (run_call 0 admitted running rfl rfl rfl (exec_dataAccept data)), rowReached_of_pushed⟩

include src dst

/-- A telegram of another device than the master that answers no read request goes by the case on `BS` (R171, R172, R177,
R178). -/
theorem leadsTo_of_device (matched : hdrMatch s.arb t = false) (device : byteAt t 0 ≠ s.cfg.masterId) :
    LeadsTo s t (dataTable s.cfg.masterId s.arb false t) [] := by
  obtain ⟨six, -⟩ := isDataLen_iff.mp data
  have event : decodeEvent s.cfg s.arb.bs s.arb.polled (hdrMatch s.arb t) t =
      decodeCase s.cfg s.arb.bs s.arb.polled false t := by rw [matched, decodeEvent_of_valid src dst (.inl device)]
  cases bs : s.arb.bs with
  | released =>
    rw [dataTable_of_unassigned bs device]
    rw [bs, decodeCase_of_unassigned device, ← bs] at event
    exact leadsTo_of_dropped admitted running data place turns event (need_of_le _ six)
  | assigned =>
    cases sender : polledIs s.arb.polled (byteAt t 0) with
    | true =>
      rw [dataTable_of_sender bs device sender]
      rw [bs, decodeCase_of_sender (.inl sender), ← bs] at event
      exact leadsTo_of_classified admitted running data place turns event
    | false =>
      rw [dataTable_of_wrongSender bs device sender]
      rw [bs, decodeCase_of_wrongSender sender device, ← bs] at event
      exact leadsTo_of_dropped admitted running data place turns event (need_of_le _ six)
  | wrote =>
    rw [dataTable_of_wrote bs device]
    rw [bs, decodeCase_wrote, ← bs] at event
    exact leadsTo_of_dropped admitted running data place turns event (need_of_le _ six)
  | read =>
    rw [dataTable_of_mismatch bs device]
    rw [bs, decodeCase_read, ← bs] at event
    exact leadsTo_of_dropped admitted running data place turns event (need_of_le _ six)

end

/-- Settles O22: a matching response, the master's telegram, or another device's by the case on `BS`. -/
theorem dataTable_reached : Obligations.DataTable := by
  intro s t ts admitted running six fit src dst place turns
  have data : isDataLen t = true := isDataLen_iff.mpr ⟨six, fit⟩
  change LeadsTo s t (dataTable s.cfg.masterId s.arb (hdrMatch s.arb t) t)
    (if hdrMatch s.arb t ∧ s.arb.polled.map BitVec.toNat = some s.cfg.ownId.toNat then [.op .txInvoke] else [])
  cases matched : hdrMatch s.arb t with
  | true =>
    obtain ⟨read, -⟩ := (hdrMatch_iff s.arb t).mp matched
    have event : decodeEvent s.cfg s.arb.bs s.arb.polled (hdrMatch s.arb t) t = .dataReadresp t true := by
      rw [matched, decodeEvent_of_valid src dst (.inr rfl), read, decodeCase_read]
    simp only [dataTable_of_match read, true_and]
    exact leadsTo_of_response admitted running data place turns event
  | false =>
    simp only [Bool.false_eq_true, false_and, if_false]
    by_cases master : byteAt t 0 = s.cfg.masterId
    · have event : decodeEvent s.cfg s.arb.bs s.arb.polled (hdrMatch s.arb t) t = .dataPreempt t := by
        rw [matched, decodeEvent_of_preempted src dst master]
      rw [dataTable_of_master master]
      exact leadsTo_of_preempted admitted running data place turns master event
    · exact leadsTo_of_device admitted running data src dst place turns matched master

end Sys2Proof.Machine
end

section
/-! The engine drives the line only while it holds the bus (41_arbiter.md R184, 42_transmit.md R211, 20_memory.md R74): two
operations drive it, they are pending calls of `WriteTelegram`, and there the invariant has `BS = Assigned` and
`POLLED = OWN_ID`. -/

namespace Sys2Proof.Machine

/-! ### The operations that drive the line -/

/-- `TXW.BYTE` and `TXW.BREAK` (R140, R141). -/
def drives : Instr → Bool
  | .txwByte _ => true
  | .txwBreak => true
  | _ => false

/-- No other operation does anything on the line. -/
theorem exec_lineOut {i : Instr} {s u : State} (h : exec i s = .next u) (quiet : drives i = false) :
    u.lineOut = s.lineOut := by
  cases i with
  | txwByte | txwBreak => cases quiet
  | rxEsc | rxMark | rxBadesc | rxBreak | rxBreak0 | rxBadmark | rxTmo | tgMac | tgLong | tgShort | macRsvd | txInvoke |
    txAttempt | cksum | decUndecoded | fltPass | sysStop =>
    cases h; rfl
  | rxData | rxLitff | macAck | macRel => cases h; simp
  | macAssign id =>
    obtain ⟨v, rfl | ⟨e, rfl⟩, ⟨-, rfl⟩ | rfl⟩ := execMacAssign_cases h <;> rfl
  | dataEvent | dataAddr | dataPreempt | dataUnassigned | dataWrongsender | dataClassify | dataReadreq | dataWrite |
    dataBcast | dataInwrote | txStamp | decDispatch | decUbaFast | decUbaWw | decRcTime | decRcMode | decUbaErr =>
    obtain ⟨-, h⟩ := need_eq_next.mp h
    cases h; rfl
  | dataReadresp t m =>
    obtain ⟨-, h⟩ := need_eq_next.mp h
    cases m <;> cases h <;> simp
  | dataAccept t =>
    obtain ⟨-, rfl⟩ := execDataAccept_eq_next h
    rfl
  | txPull => obtain rfl | ⟨p, q, -, -, ⟨-, rfl⟩ | rfl⟩ := execTxPull_cases h <;> rfl
  | txBudget => obtain ⟨e, rfl⟩ | rfl := execTxBudget_cases h <;> rfl
  | txWrite t =>
    obtain ⟨v, l, d, rfl, rfl | ⟨e, rfl⟩ | rfl | ⟨i, rfl⟩ | ⟨i, -, rfl⟩⟩ := execTxWrite_cases h <;> simp
  | txResult => obtain rfl | ⟨-, rfl⟩ | ⟨-, rfl⟩ := execTxResult_cases h <;> rfl
  | txState => obtain ⟨x, rfl⟩ | rfl | rfl := execTxState_cases h <;> rfl
  | txRelease part => cases part <;> cases h <;> rfl
  | decRecv => obtain rfl | ⟨p, q, -, rfl | ⟨-, rfl⟩⟩ := execDecRecv_cases h <;> rfl
  | decGuard t n => obtain rfl | ⟨-, rfl⟩ := execDecGuard_cases h <;> rfl
  | decUbaSlow t =>
    obtain ⟨r, b, a, rfl, -⟩ := execDecUbaSlow_cases h
    rfl
  | decPlus t => obtain ⟨c, rfl⟩ | ⟨r, -, rfl⟩ := execDecPlus_cases h <;> rfl
  | fltOptime | fltStarts | fltExhaust => cases h; simp [filterOptime, filterStarts, filterExhaust]

/-! ### Where they are selected -/

section

variable {c : Cfg} {i : Instr}

theorem drives_decodeRaw (fs : FramerState) (rxEmpty : Bool) (b : Byte) : drives (decodeRaw fs rxEmpty b) = false := by
  cases fs <;> simp only [decodeRaw] <;> split_ifs <;> rfl

theorem drives_decodeMac (v : Byte) : drives (decodeMac v) = false := by
  unfold decodeMac
  split_ifs <;> rfl

theorem drives_decodeCase (bs : BusState) (polled : Option DevId) (m : Bool) (t : Telegram) :
    drives (decodeCase c bs polled m t) = false := by
  cases bs with
  | released | assigned => simp only [decodeCase]; split_ifs <;> rfl
  | read | wrote => rfl

theorem drives_decodeEvent (bs : BusState) (polled : Option DevId) (m : Bool) (t : Telegram) :
    drives (decodeEvent c bs polled m t) = false := by
  unfold decodeEvent
  split_ifs
  · rfl
  · rfl
  · exact drives_decodeCase bs polled m t

theorem drives_decodeDest (t : Telegram) : drives (decodeDest t) = false := by
  unfold decodeDest
  split_ifs <;> rfl

theorem drives_decodeKey (t : Telegram) : drives (decodeKey c t) = false := by
  unfold decodeKey
  split
  · rfl
  · split <;> rfl

theorem drives_layoutInstr (t : Telegram) (l : Layout) : drives (layoutInstr t l) = false := by cases l <;> rfl

/-- No byte of a telegram selects an operation that drives the line: one is called by name, or is the engine's own byte on the
wire. -/
theorem point_of_drives {pt : Point} {bs : List Byte} (decoded : decode c pt bs = .ok i) (d : drives i = true) :
    pt = .call i ∨ ∃ p, pt = .wire p := by
  have quiet {j : Instr} (q : drives j = false) : (.ok j : Except Reject Instr) ≠ .ok i := by
    rintro ⟨⟩
    exact Bool.eq_false_iff.mp q d
  have quietIf {p : Prop} [Decidable p] {j : Instr} {r : Reject} (q : drives j = false) :
      (if p then .ok j else .error r : Except Reject Instr) ≠ .ok i := by
    split
    · exact quiet q
    · nofun
  cases pt with
  | wire p => exact .inr ⟨p, rfl⟩
  | call j =>
    obtain _ | _ := bs <;> cases decoded
    exact .inl rfl
  | raw =>
    obtain _ | ⟨b, _ | _⟩ := bs
    · exact absurd decoded (quiet rfl)
    · exact absurd decoded (quiet (drives_decodeRaw ..))
    · cases decoded
  | telegram =>
    obtain _ | ⟨v, _ | _⟩ := bs
    · cases decoded
    · exact absurd decoded (quiet rfl)
    · exact absurd decoded (quietIf rfl)
  | mac =>
    obtain _ | ⟨v, _ | _⟩ := bs
    · cases decoded
    · exact absurd decoded (quiet (drives_decodeMac v))
    · cases decoded
  | long => exact absurd decoded (quietIf (by split <;> rfl))
  | event => exact absurd decoded (quietIf (drives_decodeEvent ..))
  | case => exact absurd decoded (quietIf (drives_decodeCase ..))
  | dest => exact absurd decoded (quietIf (drives_decodeDest bs))
  | key => exact absurd decoded (quietIf (drives_decodeKey bs))
  | layout =>
    simp only [decode] at decoded
    split at decoded
    · cases decoded
    · exact absurd decoded (quiet (drives_layoutInstr ..))

/-- A pending call of the worker that drives the line is that operation's own (R276). -/
theorem ctl_of_drives {s : State} {c : Ctl} (decoded : decode s.cfg (ctlPoint s c).1 (ctlPoint s c).2.1 = .ok i)
    (d : drives i = true) : c = .op i := by
  have point := point_of_drives decoded d
  cases c with
  | op j => simpa [ctlPoint] using point
  | telegram | mac | long | event | case | dest => simp [ctlPoint] at point
  | stamped | write | attempted =>
    obtain ⟨⟨⟩⟩ | ⟨p, ⟨⟩⟩ := point
    cases d
  | pulled | budgeted =>
    simp only [ctlPoint] at point
    split at point <;> obtain ⟨⟨⟩⟩ | ⟨p, ⟨⟩⟩ := point <;> cases d

/-- The worker drives the line in a pending call alone: at the top of `WorkerStep` it only reads. -/
theorem wctl_of_drives {s : State} (fetched : (workerFetch s).1 = .ok i) (d : drives i = true) :
    ∃ k, s.wctl = .op i :: k := by
  cases calls : s.wctl with
  | cons c k =>
    rw [workerFetch_cons calls] at fetched
    exact ⟨k, by rw [ctl_of_drives fetched d]⟩
  | nil =>
    obtain raised | notRaised := Bool.eq_false_or_eq_true s.stop
    · rw [workerFetch_stop calls raised] at fetched
      cases fetched
      cases d
    · rw [workerFetch_read calls notRaised] at fetched
      dsimp only at fetched
      obtain ⟨⟨⟩⟩ | ⟨p, ⟨⟩⟩ := point_of_drives fetched d

/-- In a call of `WriteTelegram` the engine holds the bus (R184). -/
theorem WorkerPlace.holds_of_drives {s : State} {k : List Ctl} (place : WorkerPlace s (.op i :: k)) (d : drives i = true) :
    holdsBus s = true := by
  cases place with
  | writeByte packet phase holds => exact holds
  | writeBreak packet phase holds => exact holds
  | _ => cases d

/-- The decoder agent drives nothing (R306). -/
theorem decoderFetch_quiet {s : State} (place : DecoderPlace s.cfg s.dctl) (fetched : (decoderFetch s).1 = .ok i) :
    drives i = false := by
  refine Bool.eq_false_iff.mpr fun d => ?_
  cases calls : s.dctl with
  | nil =>
    rw [decoderFetch_nil calls] at fetched
    cases fetched
    cases d
  | cons c k =>
    rw [decoderFetch_cons calls] at fetched
    rw [calls] at place
    have point := point_of_drives fetched d
    cases place with
    | key | layout => simp [dctlPoint] at point
    | dispatch | undecoded | guard =>
      obtain ⟨⟨⟩⟩ | ⟨p, ⟨⟩⟩ := point
      cases d

end

/-! ### The turns -/

section

variable {s u : State}

theorem workerTurn_drives (h : Inv s) (next : workerTurn s = .next u) (drove : u.lineOut ≠ s.lineOut) :
    holdsBus s = true := by
  obtain ⟨-, rfl⟩ | ⟨running, i, fetched, executed⟩ := workerTurn_eq_next.mp next
  · exact absurd rfl drove
  have d : drives i = true := by
    refine Bool.of_not_eq_false fun quiet => drove ?_
    obtain ⟨cs, l, d, left⟩ := workerFetch_snd_eq s
    rw [exec_lineOut executed quiet, left]
  obtain ⟨k, calls⟩ := wctl_of_drives fetched d
  exact (calls ▸ (wctlOk_iff s).mp h.worker).holds_of_drives d

theorem decoderTurn_lineOut (h : Inv s) (next : decoderTurn s = .next u) : u.lineOut = s.lineOut := by
  obtain ⟨i, fetched, executed⟩ := runFetched_eq_next.mp next
  obtain ⟨cs, left⟩ := decoderFetch_snd_eq s
  rw [exec_lineOut executed (decoderFetch_quiet ((dctlOk_iff s).mp h.decoder) fetched), left]

/-- A turn that does anything on the line is the worker's, and the engine holds the bus. -/
theorem runTurn_drives {t : Turn} (h : Inv s) (next : runTurn t s = .next u) (drove : u.lineOut ≠ s.lineOut) :
    holdsBus s = true ∧ t = .worker := by
  cases t with
  | worker => exact ⟨workerTurn_drives h next drove, rfl⟩
  | decoder => exact absurd (decoderTurn_lineOut h next) drove
  | produce p =>
    obtain ⟨-, rfl⟩ := runTurn_produce_eq_next next
    exact absurd rfl drove
  | advance | stopInput | restart => cases next; exact absurd rfl drove

end

/-- Settles O36: taking the turn changes neither the line's record nor the arbiter, and keeps the invariant. -/
theorem drivesOnlyWhenGranted : Obligations.DrivesOnlyWhenGranted := by
  intro s u h next drove
  obtain ⟨-, next⟩ := step_eq_next.mp next
  have taken := inv_takeTurn h
  obtain ⟨ts, d, left⟩ := takeTurn_snd_eq s
  rw [left] at next taken
  obtain ⟨holds, worker⟩ := runTurn_drives taken next drove
  obtain ⟨assigned, ours⟩ := (holdsBus_iff s).mp holds
  exact ⟨assigned, ours, worker⟩

end Sys2Proof.Machine
end

section
/-! The Transmit Engine's operations one by one (42_transmit.md R200 to R208): what each leaves, in the terms of the rules, and
the order in which one invocation calls them. -/

namespace Sys2Proof.Machine

section

variable {s : State}

/-! ### Pulling a packet (R201) -/

theorem exec_txPull_pending (pend : s.tx.txpend = true) : exec .txPull s = .next s := if_pos pend

theorem exec_txPull_empty (free : s.tx.txpend = false) (empty : s.outq = []) : exec .txPull s = .next s := by
  rw [exec, execTxPull, if_neg (by simp [free]), empty]
  rfl

section

variable {p : List Byte} {q : List (List Byte)} (free : s.tx.txpend = false) (queue : s.outq = p :: q)

include free queue

theorem exec_txPull_packet (six : 6 ≤ p.length) : exec .txPull s = .next (loadTx p { s with outq := q }) := by
  rw [exec, execTxPull, if_neg (by simp [free]), queue]
  exact if_pos six

theorem exec_txPull_short (short : p.length < 6) :
    exec .txPull s = .next (raiseW (.txBadPacket p.length) { s with outq := q }) := by
  rw [exec, execTxPull, if_neg (by simp [free]), queue]
  exact if_neg (Nat.not_le_of_lt short)

end

/-! ### Stamping (R202) -/

/-- Writing the first byte and byte `n - 1` of a buffer, as a whole. -/
theorem set_first_set_last {α : Type} {l : List α} {n : Nat} (a c : α) (two : 2 ≤ n) (inside : n ≤ l.length) :
    (l.set 0 a).set (n - 1) c = a :: (l.take (n - 1)).drop 1 ++ [c] ++ l.drop n := by
  obtain ⟨m, rfl⟩ := Nat.exists_eq_add_of_le' two
  cases l with
  | nil => simp at inside
  | cons x xs =>
    have inner : m < xs.length := by simpa using inside
    simp [List.set_eq_take_append_cons_drop, inner]

/-- The bytes before the last one of a stamped buffer: `OWN_ID` in front (R202). -/
def stampBody (s : State) : List Byte := s.cfg.ownId :: (s.tx.txbuf.take (s.tx.txlen - 1)).drop 1

/-- What `TX.STAMP` makes of the pending telegram (R202). -/
def stampedTelegram (s : State) : Telegram := stampBody s ++ [Config.checksum (stampBody s)]

/-- The state after `TX.STAMP` (R202). -/
def stampTx (s : State) : State :=
  { s with
    cks := Config.checksum (stampBody s)
    tx := { s.tx with txbuf := stampedTelegram s ++ s.tx.txbuf.drop s.tx.txlen } }

/-- `TXBUF` holds a telegram of 6 to 32 bytes (R33). -/
structure Loaded (s : State) : Prop where
  size : s.tx.txbuf.length = 32
  six : 6 ≤ s.tx.txlen
  fit : s.tx.txlen ≤ 32

section

variable (loaded : Loaded s)

include loaded

theorem stampBody_length : (stampBody s).length = s.tx.txlen - 1 := by
  obtain ⟨size, six, fit⟩ := loaded
  simp only [stampBody, List.length_cons, List.length_drop, List.length_take]
  omega

theorem stampedTelegram_length : (stampedTelegram s).length = s.tx.txlen := by
  rw [stampedTelegram, List.length_append, stampBody_length loaded, List.length_singleton]
  exact Nat.sub_add_cancel (Nat.le_trans (by decide) loaded.six)

theorem txbuf_stampTx : (stampTx s).tx.txbuf =
    (s.tx.txbuf.set 0 s.cfg.ownId).set (s.tx.txlen - 1) (Config.checksum (stampBody s)) :=
  (set_first_set_last _ _ (Nat.le_trans (by decide) loaded.six) (loaded.size ▸ loaded.fit)).symm

/-- The checksum covers the stamped byte 0. -/
theorem exec_txStamp : exec .txStamp s = .next (stampTx s) := by
  have bytes := txbuf_stampTx loaded
  obtain ⟨size, six, fit⟩ := loaded
  have guard : 6 ≤ (txTelegram s).length := by
    rw [txTelegram, List.length_take]
    omega
  have covered : (txTelegram (setTxByte 0 s.cfg.ownId s)).take (s.tx.txlen - 1) = stampBody s := by
    obtain ⟨m, hm⟩ := Nat.exists_eq_add_of_le' six
    cases hb : s.tx.txbuf with
    | nil => simp [hb] at size
    | cons x xs => simp [txTelegram, setTxByte, stampBody, hb, hm, List.take_take]
  refine (need_of_le _ guard).trans ?_
  rw [covered]
  simp only [setTxByte, computeChecksum, ← bytes]
  rfl

theorem txTelegram_stampTx : txTelegram (stampTx s) = stampedTelegram s := by
  have whole := stampedTelegram_length loaded
  exact (congrArg (List.take · _) whole.symm).trans List.take_left

/-- Stamping leaves what the checksum covers as it is, so it can be repeated (R210). -/
theorem stampBody_stampTx : stampBody (stampTx s) = stampBody s := by
  have len := stampBody_length loaded
  have front : (stampTx s).tx.txbuf.take (s.tx.txlen - 1) = stampBody s := by
    simp only [stampTx, stampedTelegram, List.append_assoc, ← len, List.take_left]
  exact congrArg (fun l => s.cfg.ownId :: l.drop 1) front

theorem stampTx_stampTx : stampTx (stampTx s) = stampTx s := by
  have body := stampBody_stampTx loaded
  have whole : stampedTelegram (stampTx s) = stampedTelegram s := congrArg (fun l => l ++ [Config.checksum l]) body
  have rest : (stampTx s).tx.txbuf.drop s.tx.txlen = s.tx.txbuf.drop s.tx.txlen := by
    simp only [stampTx, ← stampedTelegram_length loaded, List.drop_left]
  calc stampTx (stampTx s)
    _ = { stampTx s with
          cks := Config.checksum (stampBody (stampTx s))
          tx := { s.tx with txbuf := stampedTelegram (stampTx s) ++ (stampTx s).tx.txbuf.drop s.tx.txlen } } := rfl
    _ = stampTx s := by rw [body, whole, rest]; rfl

theorem getElem?_stampTx {i : Nat} (notFirst : i ≠ 0) (notLast : i ≠ s.tx.txlen - 1) :
    (stampTx s).tx.txbuf[i]? = s.tx.txbuf[i]? := by
  rw [txbuf_stampTx loaded, List.getElem?_set_ne notLast.symm, List.getElem?_set_ne notFirst.symm]

end

/-! ### The budget (R203) -/

theorem overBudget_iff : overBudget s = true ↔ 200 < s.now - s.tx.acqTime := decide_eq_true_iff

theorem exec_txBudget_within (within : s.now - s.tx.acqTime ≤ 200) : exec .txBudget s = .next (returnW false s) :=
  if_neg (mt overBudget_iff.mp (Nat.not_lt_of_le within))

theorem exec_txBudget_over (late : 200 < s.now - s.tx.acqTime) :
    exec .txBudget s = .next (returnW true (raiseW (.txBudget (elapsed s)) s)) := if_pos (overBudget_iff.mpr late)

/-! ### The result of an attempt (R206) -/

theorem exec_txResult_success : exec (.txResult true) s = .next (dropTx s) := rfl

theorem exec_txResult_retry (again : s.tx.retries < 5) :
    exec (.txResult false) s = .next { s with tx := { s.tx with retries := s.tx.retries + 1 } } :=
  if_neg (Nat.not_lt_of_le again)

theorem exec_txResult_drop (last : 5 ≤ s.tx.retries) : exec (.txResult false) s =
    .next (dropTx (count .txFail (raiseW (.txDropped (headerOf (txTelegram s))) s))) := if_pos (Nat.lt_succ_of_le last)

/-- A byte inside the first `n` bytes is the byte of the whole. -/
theorem byteAt_take {t : Telegram} {i n : Nat} (inside : i < n) : byteAt (t.take n) i = byteAt t i := by
  simp [byteAt, List.getD_eq_getElem?_getD, inside]

/-! ### The bus state after an attempt (R207) -/

/-- `RDEXP` after an attempt: the header of the response awaited, if a read request was sent. -/
def rdexpAfter (hdr : Header) (s : State) : Header :=
  if 0x80 ≤ hdr.dst.toNat then ⟨hdr.dst &&& 0x7F, s.cfg.ownId, hdr.typ, hdr.b3⟩ else s.arb.rdexp

/-- The state after `TX.STATE(hdr)`: `BS` is that of the class of the destination byte (R207). -/
def stateAfter (hdr : Header) (s : State) : State :=
  { s with
    arb := ⟨classState hdr.dst s.arb.bs, s.arb.polled, rdexpAfter hdr s⟩
    tx := { s.tx with txp := .idle } }

theorem exec_txState (hdr : Header) : exec (.txState hdr) s = .next (stateAfter hdr s) := by
  have read : bit7 hdr.dst = true ↔ 0x80 ≤ hdr.dst.toNat := bit7_iff
  have device : devLo ≤ hdr.dst ↔ 0x08 ≤ hdr.dst.toNat := BitVec.le_def
  simp only [exec, execTxState, stateAfter, classState, rdexpAfter, read, device]
  split
  · rfl
  · split <;> rfl

/-! ### The order of an invocation (R200) -/

section

variable {i : Instr} {c : Ctl} {k cont : List Ctl} {ts : List Turn}

/-- A place of the call structure where the calling operation alone selects (R276). -/
theorem step_called (admitted : configOk s.cfg = true) (running : s.stopped = false) (turn : s.turns = .worker :: ts)
    (place : s.wctl = c :: k) (selects : ctlPoint s c = (.call i, [], cont)) :
    step s = exec i { s with turns := ts, wctl := cont ++ k } := by
  rw [step_pendingCall admitted turn running place, selects]
  rfl

theorem ctlPoint_pulled_free (free : s.tx.txpend = false) :
    ctlPoint s .pulled = (.call (.txRelease .call), [], []) := if_neg (by simp [free])

theorem ctlPoint_pulled_pending (pend : s.tx.txpend = true) : ctlPoint s .pulled = (.call .txStamp, [], [.stamped]) :=
  if_pos pend

theorem ctlPoint_budgeted_over (late : s.wret = true) :
    ctlPoint s .budgeted = (.call (.txRelease .call), [], []) := if_pos late

theorem ctlPoint_budgeted_within (within : s.wret = false) :
    ctlPoint s .budgeted = (.call .txAttempt, [], [.attempted (headerOf (txTelegram s))]) := if_neg (by simp [within])

end

end

/-! ### The statements -/

/-- Settles O23: each place of the invocation and what it selects there. -/
theorem invocationOrder : Obligations.InvocationOrder := by
  intro s k ts hdr admitted running turn
  have called {c : Ctl} {i : Instr} {cont : List Ctl} := @step_called s i c k cont ts admitted running turn
  exact ⟨rfl, fun place => called place rfl, fun place free => called place (ctlPoint_pulled_free free),
    fun place pend => called place (ctlPoint_pulled_pending pend), fun place => called place rfl,
    fun place late => called place (ctlPoint_budgeted_over late),
    fun place within => called place (ctlPoint_budgeted_within within), fun place => called place rfl,
    fun place => called place rfl⟩

/-- Settles O24. -/
theorem txPull : Obligations.TxPull := fun _ =>
  ⟨exec_txPull_pending, exec_txPull_empty, fun _ _ => exec_txPull_packet, fun _ _ => exec_txPull_short⟩

/-- Settles O25: the two writes of bytes make the stamped telegram. -/
theorem txStamp : Obligations.TxStamp := fun _ size six fit => exec_txStamp ⟨size, six, fit⟩

/-- Settles O26: the stamped bytes are a fixed point of stamping, and the two writes miss every other byte. -/
theorem stampingIdempotent : Obligations.StampingIdempotent := by
  intro s size six fit
  have loaded : Loaded s := ⟨size, six, fit⟩
  have again : exec .txStamp (stampTx s) = .next (stampTx (stampTx s)) :=
    exec_txStamp ⟨by rw [txbuf_stampTx loaded, List.length_set, List.length_set, size], six, fit⟩
  rw [stampTx_stampTx loaded] at again
  exact ⟨stampTx s, exec_txStamp loaded, again, rfl, rfl,
    fun i one notLast => getElem?_stampTx loaded (Nat.one_le_iff_ne_zero.mp one) notLast⟩

/-- Settles O27. -/
theorem txBudget : Obligations.TxBudget := fun _ => ⟨exec_txBudget_within, exec_txBudget_over⟩

/-- Settles O29: the header reported is that of the first four bytes of the buffer. -/
theorem txResult : Obligations.TxResult := by
  intro s
  refine ⟨exec_txResult_success, exec_txResult_retry, fun last four => (exec_txResult_drop last).trans ?_⟩
  have header : headerOf (txTelegram s) =
      ⟨byteAt s.tx.txbuf 0, byteAt s.tx.txbuf 1, byteAt s.tx.txbuf 2, byteAt s.tx.txbuf 3⟩ := by
    rw [headerOf, txTelegram, byteAt_take (by omega), byteAt_take (by omega), byteAt_take (by omega), byteAt_take four]
  rw [header]
  rfl

/-- Settles O30: the class of the destination byte, range by range. -/
theorem txState : Obligations.TxState := by
  intro s hdr
  rw [exec_txState, stateAfter, classState, rdexpAfter]
  refine ⟨fun read => ?_, fun device notRead => ?_, fun broadcast => ?_⟩
  · rw [if_pos read, if_pos read]
  · rw [if_neg (Nat.not_le_of_lt notRead), if_neg (Nat.not_le_of_lt notRead), if_pos device]
  · have notRead : ¬ 0x80 ≤ hdr.dst.toNat := by omega
    rw [if_neg notRead, if_neg notRead, if_neg (Nat.not_le_of_lt broadcast)]

/-- Settles O31: each operation is its call, and for the second part of the release its two writes. -/
theorem txCallsWrite : Obligations.TxCallsWrite := fun _ => ⟨rfl, rfl, rfl⟩

end Sys2Proof.Machine
end

section
/-! `WriteTelegram` (42_transmit.md R205, R209): each wait to the next, and the whole call under `ECHO_LINE`, by induction on the
bytes still to send. -/

namespace Sys2Proof.Machine

/-! ### From wait to wait (R205) -/

section

variable {s u : State} {t : Telegram} {i : Nat} {b : Byte}

theorem writeFrom_byte (byte : t[i]? = some b) : writeFrom t i s = callW [.op (.txwByte b), .write t] (setTxp (.echo i) s) := by
  rw [writeFrom, byte]

theorem writeFrom_end (past : t[i]? = none) : writeFrom t i s = callW [.op .txwBreak, .write t] (setTxp .act s) := by
  rw [writeFrom, past]

/-- What the echo of byte `i`, `x` if it is right, leads to: `verified` is the state where it is. `u` is the state after the
wait (R205, R312). -/
def checkEcho (i : Nat) (x : Byte) (verified : State) (o : ReadOutcome) (u : State) : State :=
  if u.stop then stopWorker u
  else match o with
    | .timeout => writeFails (.txEchoMissing i) u
    | .byte y => if y ≠ x then writeFails (.txEchoMismatch i x y) u else verified

section

variable {x y : Byte} {v : State} {o : ReadOutcome}

theorem checkEcho_stop (raised : u.stop = true) : checkEcho i x v o u = stopWorker u := if_pos raised

theorem checkEcho_timeout (notRaised : u.stop = false) : checkEcho i x v .timeout u = writeFails (.txEchoMissing i) u :=
  if_neg (by simp [notRaised])

theorem checkEcho_wrong (notRaised : u.stop = false) (wrong : y ≠ x) :
    checkEcho i x v (.byte y) u = writeFails (.txEchoMismatch i x y) u :=
  (if_neg (by simp [notRaised])).trans (if_pos wrong)

theorem checkEcho_right (notRaised : u.stop = false) : checkEcho i x v (.byte x) u = v :=
  (if_neg (by simp [notRaised])).trans (if_neg (by simp))

end

theorem exec_txWrite_idle (phase : s.tx.txp = .idle) : exec (.txWrite t) s = .next (writeFrom t 0 s) := by
  rw [exec, execTxWrite, phase]

theorem exec_txWrite_echo {o : ReadOutcome} (phase : s.tx.txp = .echo i) (byte : t[i]? = some b) (read : lineRead s = (o, u)) :
    exec (.txWrite t) s = .next (checkEcho i b
      (if b = escByte then callW [.write t] (setTxp (.echo2 i) u) else writeFrom t (i + 1) u) o u) := by
  rw [exec, execTxWrite, phase]
  cases o with
  | timeout => simp only [byte, read, checkEcho, apply_ite Host.Outcome.next]
  | byte y => simp only [byte, read, checkEcho, apply_ite Host.Outcome.next]

theorem exec_txWrite_echo2 {o : ReadOutcome} (phase : s.tx.txp = .echo2 i) (read : lineRead s = (o, u)) :
    exec (.txWrite t) s = .next (checkEcho i escByte (writeFrom t (i + 1) u) o u) := by
  rw [exec, execTxWrite, phase]
  cases o with
  | timeout => simp only [read, checkEcho, apply_ite Host.Outcome.next]
  | byte y => simp only [read, checkEcho, apply_ite Host.Outcome.next]

theorem exec_txWrite_act {ok : Bool} (phase : s.tx.txp = .act) (avail : lineAvail s = (ok, u)) :
    exec (.txWrite t) s = .next (if u.stop then stopWorker u else if ok then returnW true u else writeFails .txNoBreakAck u) := by
  rw [exec, execTxWrite, phase]
  simp only [avail, apply_ite Host.Outcome.next]

/-- A wait does not change the stop input. -/
theorem stop_of_lineRead {o : ReadOutcome} {stop : Bool} (read : lineRead s = (o, u)) (input : s.stop = stop) :
    u.stop = stop := by
  rw [← input, ← lineRead_stop s, read]

theorem stop_of_lineAvail {ok stop : Bool} (avail : lineAvail s = (ok, u)) (input : s.stop = stop) : u.stop = stop := by
  rw [← input, ← lineAvail_stop s, avail]

end

/-- Settles O28: `writeFrom`, `writeFails` and `stopWorker` are the statement's `next`, `fails` and `stops`; each wait checks what
the line answered. -/
theorem txWrite : Obligations.TxWrite := by
  intro s t _
  refine ⟨exec_txWrite_idle, fun i b u phase byte => ?echo, fun i u phase => ?echo2, fun u phase => ?act⟩
  case echo =>
    have check {o} (read : lineRead s = (o, u)) := exec_txWrite_echo phase byte read
    refine ⟨fun o read raised => ?_, fun read notRaised => ?_, fun x read notRaised wrong => ?_,
      fun read notRaised notEsc => ?_, fun read notRaised esc => ?_⟩ <;> rw [check read]
    · rw [checkEcho_stop (stop_of_lineRead read raised)]; rfl
    · rw [checkEcho_timeout (stop_of_lineRead read notRaised)]; rfl
    · rw [checkEcho_wrong (stop_of_lineRead read notRaised) wrong]; rfl
    · rw [checkEcho_right (stop_of_lineRead read notRaised), if_neg notEsc]; rfl
    · rw [checkEcho_right (stop_of_lineRead read notRaised), if_pos esc]; rfl
  case echo2 =>
    have check {o} (read : lineRead s = (o, u)) := exec_txWrite_echo2 (t := t) phase read
    refine ⟨fun o read raised => ?_, fun read notRaised => ?_, fun x read notRaised wrong => ?_,
      fun read notRaised => ?_⟩ <;> rw [check read]
    · rw [checkEcho_stop (stop_of_lineRead read raised)]; rfl
    · rw [checkEcho_timeout (stop_of_lineRead read notRaised)]; rfl
    · rw [checkEcho_wrong (stop_of_lineRead read notRaised) wrong]; rfl
    · rw [checkEcho_right (stop_of_lineRead read notRaised)]; rfl
  case act =>
    have check {ok} (avail : lineAvail s = (ok, u)) := exec_txWrite_act (t := t) phase avail
    refine ⟨fun ok avail raised => ?_, fun avail notRaised => ?_, fun avail notRaised => ?_⟩ <;> rw [check avail]
    · rw [if_pos (stop_of_lineAvail avail raised)]; rfl
    · rw [if_neg (by simp [stop_of_lineAvail avail notRaised])]; rfl
    · rw [if_neg (by simp [stop_of_lineAvail avail notRaised])]; rfl

/-! ### Turns of the worker alone -/

/-- The worker can take its turns: the configuration is admitted, nothing is stopped, and the line is at rest (R55, R312). -/
structure Ready (s : State) : Prop where
  admitted : configOk s.cfg = true
  running : s.stopped = false
  notRaised : s.stop = false
  normal : s.parity = .normal

/-- `s` with these turns to come. -/
def withTurns (ts : List Turn) (s : State) : State := { s with turns := ts }

/-- `s` with these calls pending. -/
def withCalls (k : List Ctl) (s : State) : State := { s with wctl := k }

/-- `n` turns of the worker lead from `s` to `u`, whatever turns come after them. -/
def WorkerRun (n : Nat) (s u : State) : Prop :=
  ∀ ts, Sys2Proof.core.run n (withTurns (List.replicate n .worker ++ ts) s) = .next (withTurns ts u)

namespace WorkerRun

variable {s v u : State} {n m : Nat}

theorem trans (first : WorkerRun n s v) (second : WorkerRun m v u) : WorkerRun (n + m) s u := by
  intro ts
  rw [List.replicate_add, List.append_assoc]
  exact (run_add n m (first _)).trans (second ts)

/-- One operation that its caller selects. -/
theorem call {c : Ctl} {k cont : List Ctl} {i : Instr} (admitted : configOk s.cfg = true) (running : s.stopped = false)
    (place : s.wctl = c :: k) (selects : ctlPoint s c = (.call i, [], cont))
    (executed : ∀ ts, exec i (withTurns ts (withCalls (cont ++ k) s)) = .next (withTurns ts u)) :
    WorkerRun 1 s u := by
  intro ts
  have samePoint : ctlPoint (withTurns (.worker :: ts) s) c = (.call i, [], cont) :=
    (ctlPoint_congr (s := s) c rfl rfl rfl).trans selects
  exact run_succ 0
    ((step_called (s := withTurns (.worker :: ts) s) admitted running rfl place samePoint).trans (executed ts))

/-- The run of a state whose next turns are the worker's. -/
theorem run_eq {ts : List Turn} (h : WorkerRun n s u) (turns : s.turns = List.replicate n .worker ++ ts) :
    Sys2Proof.core.run n s = .next (withTurns ts u) := by
  have run := h ts
  rwa [← turns] at run

end WorkerRun

/-! ### Under `ECHO_LINE` (R209) -/

theorem echoItems_data {b : Byte} (t : Telegram) (data : b ≠ escByte) : echoItems (b :: t) = .rx b :: echoItems t := by
  rw [echoItems, List.flatMap_cons, if_neg data]
  rfl

theorem echoItems_esc (t : Telegram) : echoItems (escByte :: t) = .rx escByte :: .rx escByte :: echoItems t := by
  rw [echoItems, List.flatMap_cons, if_pos rfl]
  rfl

theorem countFf_cons (b : Byte) (t : Telegram) : countFf (b :: t) = countFf t + if b = escByte then 1 else 0 := by
  simp [countFf, List.countP_cons]

/-- `s` with this left on the line. -/
def withLine (l : List LineItem) (s : State) : State := { s with line := l }

/-- `s` after a write of `b` under `Normal` parity. -/
def withWrite (b : Byte) (s : State) : State := { s with lineOut := s.lineOut ++ [.write b .normal] }

/-- The state after a `WriteTelegram(t, n)` that succeeded with `l` left on the line (R209). -/
def written (t : Telegram) (l : List LineItem) (s : State) : State :=
  { s with wret := true, line := l, lineOut := s.lineOut ++ wireTelegram t, tx := { s.tx with txp := .act } }

theorem written_cons (b : Byte) (t : Telegram) (l r : List LineItem) (s : State) :
    written t l (withLine r (withWrite b s)) = written (b :: t) l s := by
  have sent : s.lineOut ++ [.write b .normal] ++ wireTelegram t = s.lineOut ++ wireTelegram (b :: t) := List.append_assoc ..
  rw [written, written, ← sent]
  rfl

/-- Neither the turns to come nor the wait before change where `WriteTelegram` goes. -/
theorem writeFrom_resume (t : Telegram) (i : Nat) (p : TxPhase) (ts : List Turn) (s : State) :
    writeFrom t i (setTxp p (withTurns ts s)) = withTurns ts (writeFrom t i s) := by
  obtain ⟨b, byte, -⟩ | ⟨past, -⟩ := writeFrom_cases t i s
  · rw [writeFrom_byte byte, writeFrom_byte byte]
    rfl
  · rw [writeFrom_end (List.getElem?_eq_none past), writeFrom_end (List.getElem?_eq_none past)]
    rfl

section

variable {s : State} {t : Telegram} {l : List LineItem} {i : Nat} {b : Byte}

/-- The BREAK leaves the parity as it was (R55, R141). -/
theorem exec_txwBreak_normal (normal : s.parity = .normal) :
    exec .txwBreak s = .next { s with lineOut := s.lineOut ++ wireTelegram [] } := by
  have same : { s with parity := .normal } = s := by rw [← normal]
  exact congrArg Host.Outcome.next ((lineWrite_marked 0x00 s).trans
    (congrArg (fun u : State => { u with lineOut := s.lineOut ++ wireTelegram [] }) same))

/-! #### The waits, where the awaited byte is next on the line -/

section

variable (notRaised : s.stop = false)

include notRaised

theorem exec_txWrite_echo_data (phase : s.tx.txp = .echo i) (byte : t[i]? = some b) (data : b ≠ escByte)
    (line : s.line = .rx b :: l) : exec (.txWrite t) s = .next (writeFrom t (i + 1) (withLine l s)) := by
  rw [exec_txWrite_echo phase byte (lineRead_rx line), if_neg data]
  exact congrArg _ (checkEcho_right (u := withLine l s) notRaised)

theorem exec_txWrite_echo_esc (phase : s.tx.txp = .echo i) (byte : t[i]? = some escByte) (line : s.line = .rx escByte :: l) :
    exec (.txWrite t) s = .next (callW [.write t] (setTxp (.echo2 i) (withLine l s))) := by
  rw [exec_txWrite_echo phase byte (lineRead_rx line), if_pos rfl]
  exact congrArg _ (checkEcho_right (u := withLine l s) notRaised)

theorem exec_txWrite_echo2_esc (phase : s.tx.txp = .echo2 i) (line : s.line = .rx escByte :: l) :
    exec (.txWrite t) s = .next (writeFrom t (i + 1) (withLine l s)) := by
  rw [exec_txWrite_echo2 phase (lineRead_rx line)]
  exact congrArg _ (checkEcho_right (u := withLine l s) notRaised)

theorem exec_txWrite_act_active (phase : s.tx.txp = .act) (line : s.line = .rx b :: l) :
    exec (.txWrite t) s = .next (returnW true s) := by
  rw [exec_txWrite_act phase (lineAvail_rx line), if_neg (by simp [notRaised]), if_pos rfl]

end

/-! #### The same as turns of the worker -/

variable (ready : Ready s)

include ready

/-- A call of `WriteTelegram(t, n)` begins. -/
theorem run_enter {k : List Ctl} (idle : s.tx.txp = .idle) (place : s.wctl = .write t :: k) :
    WorkerRun 1 s (writeFrom t 0 (withCalls k s)) :=
  .call ready.admitted ready.running place rfl fun ts =>
    (exec_txWrite_idle (s := withTurns ts (withCalls k s)) idle).trans
      (congrArg _ (writeFrom_resume t 0 s.tx.txp ts (withCalls k s)))

/-- The byte goes on the wire, and the worker waits for its echo. -/
theorem run_txwByte (byte : t[i]? = some b) :
    WorkerRun 1 (writeFrom t i s) (callW [.write t] (setTxp (.echo i) (withWrite b s))) := by
  rw [writeFrom_byte byte, withWrite, ← ready.normal]
  exact .call ready.admitted ready.running rfl rfl fun _ => rfl

/-- A wait in the phase `p` that leads to byte `i`. -/
theorem run_wait {p : TxPhase} (executed : ∀ {u}, u.tx.txp = p → u.stop = false → u.line = s.line →
    exec (.txWrite t) u = .next (writeFrom t i (withLine l u))) :
    WorkerRun 1 (callW [.write t] (setTxp p s)) (writeFrom t i (withLine l s)) :=
  .call ready.admitted ready.running rfl rfl fun ts =>
    (executed (u := withTurns ts (setTxp p s)) rfl ready.notRaised rfl).trans
      (congrArg _ (writeFrom_resume t i p ts (withLine l s)))

/-- The first echo of 0xFF (R205). -/
theorem run_firstEcho (byte : t[i]? = some escByte) (line : s.line = .rx escByte :: l) :
    WorkerRun 1 (callW [.write t] (setTxp (.echo i) s)) (callW [.write t] (setTxp (.echo2 i) (withLine l s))) :=
  .call ready.admitted ready.running rfl rfl fun ts =>
    exec_txWrite_echo_esc (s := withTurns ts (setTxp (.echo i) s)) ready.notRaised rfl byte line

/-- A byte goes on the wire and its echo is verified: two operations, and a third for 0xFF. -/
theorem run_byte {rest : Telegram} (byte : t[i]? = some b) (line : s.line = echoItems (b :: rest) ++ l) :
    WorkerRun (2 + if b = escByte then 1 else 0) (writeFrom t i s)
      (writeFrom t (i + 1) (withLine (echoItems rest ++ l) (withWrite b s))) := by
  have driven := run_txwByte ready byte
  have waiting : Ready (withWrite b s) := { ready with }
  by_cases esc : b = escByte
  · subst esc
    rw [echoItems_esc] at line
    have first := run_firstEcho waiting byte line
    have second : WorkerRun 1 _ (writeFrom t (i + 1) (withLine (echoItems rest ++ l) (withWrite escByte s))) :=
      run_wait (s := withLine (.rx escByte :: (echoItems rest ++ l)) (withWrite escByte s)) { ready with }
        fun phase notRaised same => exec_txWrite_echo2_esc notRaised phase same
    exact driven.trans (first.trans second)
  · rw [echoItems_data rest esc] at line
    rw [if_neg esc]
    have verified := run_wait waiting fun phase notRaised same =>
      exec_txWrite_echo_data notRaised phase byte esc (same.trans line)
    exact driven.trans verified

/-- The BREAK goes on the wire, and the line is active before the wait for it ends. -/
theorem run_break (past : t[i]? = none) (line : s.line = .rx b :: l) :
    WorkerRun 2 (writeFrom t i s) (written [] (.rx b :: l) s) := by
  rw [writeFrom_end past, ← line]
  have driven : WorkerRun 1 (callW [.op .txwBreak, .write t] (setTxp .act s))
      (callW [.write t] (setTxp .act { s with lineOut := s.lineOut ++ wireTelegram [] })) :=
    .call ready.admitted ready.running rfl rfl fun ts =>
      exec_txwBreak_normal (s := withTurns ts (callW [.write t] (setTxp .act s))) ready.normal
  refine driven.trans (.call ready.admitted ready.running rfl rfl fun ts => ?_)
  exact exec_txWrite_act_active (s := withTurns ts (setTxp .act { s with lineOut := _ })) ready.notRaised rfl line

end

/-- From byte `i` on, by induction on the bytes `rest` still to send. -/
theorem run_fromByte {t rest : Telegram} {l : List LineItem} {i : Nat} {s : State} (ready : Ready s) (left : t.drop i = rest)
    (line : s.line = echoItems rest ++ (itemsBrk ++ l)) :
    WorkerRun (2 + 2 * rest.length + countFf rest) (writeFrom t i s) (written rest (itemsBrk ++ l) s) := by
  induction rest generalizing i s with
  | nil => exact run_break ready (List.getElem?_eq_none (List.drop_eq_nil_iff.mp left)) line
  | cons b rest ih =>
    have byte : t[i]? = some b := by rw [← List.head?_drop, left, List.head?_cons]
    have next : t.drop (i + 1) = rest := by rw [← List.tail_drop, left, List.tail_cons]
    have verified := run_byte ready byte line
    have others := ih (s := withLine _ (withWrite b s)) { ready with } next rfl
    have steps : 2 + 2 * (b :: rest).length + countFf (b :: rest) =
        2 + (if b = escByte then 1 else 0) + (2 + 2 * rest.length + countFf rest) := by
      rw [countFf_cons, List.length_cons]
      omega
    rw [steps, ← written_cons b rest (itemsBrk ++ l)]
    exact verified.trans others

/-- One call of `WriteTelegram(t, n)` under `ECHO_LINE` (R209). -/
theorem run_writeTelegram {s : State} {t : Telegram} {k : List Ctl} {l : List LineItem} (ready : Ready s)
    (idle : s.tx.txp = .idle) (place : s.wctl = .write t :: k) (line : s.line = echoItems t ++ itemsBrk ++ l) :
    WorkerRun (writeSteps t) s (written t (itemsBrk ++ l) (withCalls k s)) := by
  have bytes := run_fromByte (t := t) (i := 0) (s := withCalls k s) { ready with } List.drop_zero
    (line.trans (List.append_assoc ..))
  have steps : writeSteps t = 1 + (2 + 2 * t.length + countFf t) := by rw [writeSteps]; omega
  rw [steps]
  exact (run_enter ready idle place).trans bytes

/-- Settles O32: the run, from the state whose turns are given. -/
theorem writeUnderEcho : Obligations.WriteUnderEcho := by
  intro s t k l ts admitted _ _ running notRaised normal idle place line turns
  exact (run_writeTelegram ⟨admitted, running, notRaised, normal⟩ idle place line).run_eq turns

end Sys2Proof.Machine
end

section
/-! One invocation of the Transmit Engine, from the call of `TxInvoke` to its return (42_transmit.md R200 to R210): the steps before
and after the write, then the three runs: a packet sent, nothing to send, and a line that never echoes. -/

namespace Sys2Proof.Machine

/-! ### What the invariant gives at the call -/

section

variable {s : State}

theorem Inv.atInvoke (h : Inv s) (place : s.wctl = [.op .txInvoke]) (notRaised : s.stop = false) :
    Ready s ∧ s.tx.txp = .idle ∧ s.arb.bs = .assigned := by
  have running : s.stopped = false := by
    cases stopped : s.stopped with
    | false => rfl
    | true => exact absurd (h.stopped stopped) (by simp [place])
  have worker := (wctlOk_iff s).mp h.worker
  rw [place] at worker
  cases worker with
  | invoke idle holds => exact ⟨⟨h.config, running, notRaised, h.parity⟩, idle, ((holdsBus_iff s).mp holds).1⟩

/-- A pending telegram has 6 to 32 bytes (R33). -/
theorem Inv.loaded (h : Inv s) (pend : s.tx.txpend = true) : Loaded s := by
  obtain ⟨-, size, -, fit, -⟩ := (memory_wf_iff s).mp h.mem
  exact ⟨size, h.txLength pend, fit⟩

/-- The own id is a device id, so the release reply holds no 0xFF (R336). -/
theorem ownId_ne_escByte {c : Cfg} (admitted : configOk c = true) : c.ownId ≠ escByte := by
  intro esc
  simp [configOk, esc, idInRange, escByte, devLo, macRelHi] at admitted

end

/-! ### Before the write -/

/-- An attempt is counted and the stamped telegram is about to be written (R202 to R204). -/
def attempting (s : State) : State :=
  withCalls [.write (stampedTelegram s), .attempted (headerOf (stampedTelegram s))]
    (count .txTotal (returnW false (stampTx s)))

section

variable {s : State}

theorem Ready.attempting (ready : Ready s) : Ready (attempting s) := { ready with }

/-- `TX.INVOKE` and `TX.PULL`. -/
theorem run_toPulled {v : State} (ready : Ready s) (place : s.wctl = [.op .txInvoke])
    (pulled : ∀ ts, exec .txPull (withTurns ts (withCalls [.pulled] s)) = .next (withTurns ts v)) : WorkerRun 2 s v := by
  have invoked : WorkerRun 1 s (withCalls [.op .txPull, .pulled] s) :=
    .call ready.admitted ready.running place rfl fun _ => rfl
  exact invoked.trans (.call ready.admitted ready.running rfl rfl pulled)

section

variable (loaded : Loaded s)

include loaded

/-- `TX.STAMP`, `TX.BUDGET` and `TX.ATTEMPT`. -/
theorem run_toAttempt (ready : Ready s) (pend : s.tx.txpend = true) (within : s.now - s.tx.acqTime ≤ 200)
    (place : s.wctl = [.pulled]) : WorkerRun 3 s (attempting s) := by
  have stamped : WorkerRun 1 s (withCalls [.stamped] (stampTx s)) :=
    .call ready.admitted ready.running place (ctlPoint_pulled_pending pend) fun ts =>
      exec_txStamp (s := withTurns ts (withCalls [.stamped] s)) { loaded with }
  have budgeted : WorkerRun 1 (withCalls [.stamped] (stampTx s)) (withCalls [.budgeted] (returnW false (stampTx s))) :=
    .call ready.admitted ready.running rfl rfl fun ts =>
      exec_txBudget_within (s := withTurns ts (withCalls [.budgeted] (stampTx s))) within
  have attempted : WorkerRun 1 (withCalls [.budgeted] (returnW false (stampTx s))) (attempting s) := by
    rw [attempting, ← txTelegram_stampTx loaded]
    exact .call ready.admitted ready.running rfl (ctlPoint_budgeted_within rfl) fun _ => rfl
  exact stamped.trans (budgeted.trans attempted)

/-- The destination byte of the stamped telegram is the pending one's (R210). -/
theorem headerOf_stampedTelegram_dst : (headerOf (stampedTelegram s)).dst = byteAt s.tx.txbuf 1 := by
  have six := loaded.six
  have kept : (stampTx s).tx.txbuf[1]? = s.tx.txbuf[1]? := getElem?_stampTx loaded (by decide) (by omega)
  calc byteAt (stampedTelegram s) 1
    _ = byteAt (txTelegram (stampTx s)) 1 := by rw [txTelegram_stampTx loaded]
    _ = byteAt (stampTx s).tx.txbuf 1 := byteAt_take (Nat.lt_of_lt_of_le (by decide) six)
    _ = byteAt s.tx.txbuf 1 := by rw [byteAt, byteAt, List.getD_eq_getElem?_getD, kept, ← List.getD_eq_getElem?_getD]

end

end

/-! ### After the write -/

/-- The state after `TX.RESULT(false)` before the last retry (R206). -/
def retrying (s : State) : State := { s with tx := { s.tx with retries := s.tx.retries + 1 } }

/-- The state after `TX.RESULT(false)` that gives the telegram up (R206). -/
def givingUp (s : State) : State := dropTx (count .txFail (raiseW (.txDropped (headerOf (txTelegram s))) s))

section

variable {s : State} {hdr : Header} (ready : Ready s) (place : s.wctl = [.attempted hdr])

include ready place

/-- `TX.RESULT(ok)` and `TX.STATE(hdr)`. -/
theorem run_fromAttempted {v : State} (readyAfter : Ready v)
    (result : ∀ ts, exec (.txResult s.wret) (withTurns ts (withCalls [.op (.txState hdr)] s)) =
      .next (withTurns ts (withCalls [.op (.txState hdr)] v))) :
    WorkerRun 2 s (stateAfter hdr (withCalls [] v)) := by
  have resulted : WorkerRun 1 s (withCalls [.op (.txState hdr)] v) :=
    .call ready.admitted ready.running place rfl result
  have ended : WorkerRun 1 (withCalls [.op (.txState hdr)] v) (stateAfter hdr (withCalls [] v)) :=
    .call readyAfter.admitted readyAfter.running rfl rfl fun ts => exec_txState (s := withTurns ts (withCalls [] v)) hdr
  exact resulted.trans ended

theorem run_success (ok : s.wret = true) : WorkerRun 2 s (stateAfter hdr (withCalls [] (dropTx s))) := by
  refine run_fromAttempted ready place { ready with } fun ts => ?_
  rw [ok]
  exact exec_txResult_success (s := withTurns ts (withCalls [.op (.txState hdr)] s))

section

variable (failed : s.wret = false)

include failed

theorem run_retrying (again : s.tx.retries < 5) : WorkerRun 2 s (stateAfter hdr (withCalls [] (retrying s))) := by
  refine run_fromAttempted ready place { ready with } fun ts => ?_
  rw [failed]
  exact exec_txResult_retry (s := withTurns ts (withCalls [.op (.txState hdr)] s)) again

theorem run_givingUp (last : 5 ≤ s.tx.retries) : WorkerRun 2 s (stateAfter hdr (withCalls [] (givingUp s))) := by
  refine run_fromAttempted ready place { ready with } fun ts => ?_
  rw [failed]
  exact exec_txResult_drop (s := withTurns ts (withCalls [.op (.txState hdr)] s)) last

end

end

/-! ### A packet sent -/

/-- The packet `p` is pulled from the queue and pending (R201). -/
def pulling (p : List Byte) (q : List (List Byte)) (s : State) : State := withCalls [.pulled] (loadTx p { s with outq := q })

/-- The state after an attempt whose echoes were right, with `l` left on the line behind the echo of the BREAK. -/
def sent (l : List LineItem) (s : State) : State :=
  stateAfter (headerOf (stampedTelegram s)) (withCalls []
    (dropTx (written (stampedTelegram s) (itemsBrk ++ l)
      (withCalls [.attempted (headerOf (stampedTelegram s))] (attempting s)))))

section

variable {s : State} {p : List Byte} {q : List (List Byte)} {l : List LineItem}

theorem stampBody_pulling : stampBody (pulling p q s) = s.cfg.ownId :: (p.take (p.length - 1)).drop 1 := by
  have front : (p ++ s.tx.txbuf.drop p.length).take (p.length - 1) = p.take (p.length - 1) :=
    List.take_append_of_le_length (Nat.sub_le ..)
  exact congrArg (fun l => s.cfg.ownId :: l.drop 1) front

theorem loaded_pulling (size : s.tx.txbuf.length = 32) (six : 6 ≤ p.length) (fit : p.length ≤ 32) :
    Loaded (pulling p q s) := by
  refine ⟨?_, six, fit⟩
  simp only [pulling, withCalls, loadTx, List.length_append, List.length_drop]
  omega

theorem byteAt_pulling {i : Nat} (inside : i < p.length) : byteAt (pulling p q s).tx.txbuf i = byteAt p i :=
  List.getD_append _ _ _ _ inside

theorem sent_outcome (l : List LineItem) (s : State) : (sent l s).wctl = [] ∧
    (sent l s).line = itemsBrk ++ l ∧ (sent l s).lineOut = s.lineOut ++ wireTelegram (stampedTelegram s) ∧
    (sent l s).tx.txpend = false ∧ (sent l s).tx.retries = 0 ∧ (sent l s).tx.txp = .idle ∧
    (sent l s).stats = { s.stats with txTotal := s.stats.txTotal + 1 } ∧
    (sent l s).arb.bs = classState (headerOf (stampedTelegram s)).dst s.arb.bs := by
  simp [sent, stateAfter, withCalls, written, attempting, stampTx, statsInc]

theorem sent_frame (l : List LineItem) (s : State) : (sent l s).outq = s.outq ∧ (sent l s).wlog = s.wlog ∧
    (sent l s).arb.polled = s.arb.polled ∧ (sent l s).inq = s.inq := by
  simp [sent, stateAfter, withCalls, written, attempting, stampTx]

/-- The pending telegram is sent, within budget and under `ECHO_LINE` (R202 to R207, R209). -/
theorem run_sent (ready : Ready s) (loaded : Loaded s) (idle : s.tx.txp = .idle) (pend : s.tx.txpend = true)
    (within : s.now - s.tx.acqTime ≤ 200) (place : s.wctl = [.pulled])
    (line : s.line = echoItems (stampedTelegram s) ++ itemsBrk ++ l) :
    WorkerRun (3 + (writeSteps (stampedTelegram s) + 2)) s (sent l s) := by
  have attempt := run_toAttempt loaded ready pend within place
  have write := run_writeTelegram ready.attempting idle rfl line
  exact attempt.trans (write.trans (run_success { ready.attempting with } rfl rfl))

end

/-- Settles O33: the packet is pulled, then the pending telegram is sent, which is the stamped packet. -/
theorem invocationSends : Obligations.InvocationSends := by
  intro s p q l ts h notRaised free queue six within place body t line turns
  obtain ⟨ready, idle, assigned⟩ := h.atInvoke place notRaised
  obtain ⟨-, size, -, -, -, -, -, packets⟩ := (memory_wf_iff s).mp h.mem
  obtain ⟨-, fit⟩ := packetOk_iff.mp (packets p (by simp [queue]))
  have loaded : Loaded (pulling p q s) := loaded_pulling size six fit
  have telegram : stampedTelegram (pulling p q s) = t := congrArg (fun b => b ++ [Config.checksum b]) stampBody_pulling
  have destination : (headerOf (stampedTelegram (pulling p q s))).dst = byteAt p 1 :=
    (headerOf_stampedTelegram_dst loaded).trans (byteAt_pulling (Nat.lt_of_lt_of_le (by decide) six))
  have pulled : WorkerRun 2 s (pulling p q s) := run_toPulled ready place fun ts =>
    exec_txPull_packet (s := withTurns ts (withCalls [.pulled] s)) free queue six
  have run := pulled.trans (run_sent { ready with } loaded idle rfl within rfl (line.trans (by rw [telegram])))
  have steps : 2 + (3 + (writeSteps t + 2)) = 7 + writeSteps t := by omega
  rw [telegram, steps] at run
  obtain ⟨top, left, wire, dropped, retries, phase, stats, bs⟩ := sent_outcome l (pulling p q s)
  obtain ⟨outq, wlog, polled, inq⟩ := sent_frame l (pulling p q s)
  rw [telegram] at wire
  rw [destination] at bs
  exact ⟨_, run.run_eq turns, wire, left, outq, top, wlog, dropped, retries, phase, stats, assigned ▸ bs, polled, inq⟩

/-! ### Nothing to send -/

/-- Settles O34: the release reply is a telegram of one byte that is not 0xFF, so its write takes five steps. -/
theorem invocationReleases : Obligations.InvocationReleases := by
  intro s l ts h notRaised free empty place line turns
  obtain ⟨ready, idle, -⟩ := h.atInvoke place notRaised
  have notEsc := ownId_ne_escByte h.config
  have pulled : WorkerRun 2 s (withCalls [.pulled] s) := run_toPulled ready place fun ts =>
    exec_txPull_empty (s := withTurns ts (withCalls [.pulled] s)) free empty
  have called : WorkerRun 1 (withCalls [.pulled] s) (withCalls [.write [s.cfg.ownId], .op (.txRelease .finish)] s) :=
    .call ready.admitted ready.running rfl (ctlPoint_pulled_free free) fun _ => rfl
  have echoes : s.line = echoItems [s.cfg.ownId] ++ itemsBrk ++ l := by
    rw [echoItems_data [] notEsc]
    exact line
  have write := run_writeTelegram (s := withCalls [.write [s.cfg.ownId], .op (.txRelease .finish)] s) { ready with }
    idle rfl echoes
  have steps : writeSteps [s.cfg.ownId] = 5 := by
    rw [writeSteps, countFf_cons, if_neg notEsc]
    rfl
  rw [steps] at write
  have finished : WorkerRun 1 (written [s.cfg.ownId] (itemsBrk ++ l) (withCalls [.op (.txRelease .finish)] s))
      (setTxp .idle (releaseBus (withCalls [] (written [s.cfg.ownId] (itemsBrk ++ l) s)))) :=
    .call ready.admitted ready.running rfl rfl fun _ => rfl
  have sameTx : { s.tx with txp := .idle } = s.tx := by rw [← idle]
  refine ((pulled.trans (called.trans (write.trans finished))).run_eq turns).trans ?_
  conv => rhs; rw [← sameTx]
  rfl

/-! ### A line that never echoes -/

/-- The state after a `WriteTelegram` whose first byte `b` was not echoed (R205). -/
def unanswered (b : Byte) (l : List LineItem) (s : State) : State :=
  writeFails (.txEchoMissing 0) (withLine l (setTxp (.echo 0) (withWrite b s)))

/-- The state in which a failed attempt returns: its first byte was not echoed. -/
def failing (l : List LineItem) (s : State) : State :=
  unanswered s.cfg.ownId l (withCalls [.attempted (headerOf (stampedTelegram s))] (attempting s))

section

variable {s : State} {l : List LineItem}

theorem run_unanswered {t : Telegram} {b : Byte} {k : List Ctl} (ready : Ready s) (idle : s.tx.txp = .idle)
    (place : s.wctl = .write t :: k) (byte : t[0]? = some b) (line : s.line = .tmo :: l) :
    WorkerRun 3 s (unanswered b l (withCalls k s)) := by
  have driven := run_txwByte (s := withCalls k s) { ready with } byte
  have timedOut : WorkerRun 1 (callW [.write t] (setTxp (.echo 0) (withWrite b (withCalls k s))))
      (unanswered b l (withCalls k s)) := .call ready.admitted ready.running rfl rfl fun ts =>
    (exec_txWrite_echo (s := withTurns ts (setTxp (.echo 0) (withWrite b (withCalls k s)))) rfl byte
      (lineRead_tmo line)).trans (congrArg _ (checkEcho_timeout ready.notRaised))
  exact (run_enter ready idle place).trans (driven.trans timedOut)

theorem Ready.withCalls (ready : Ready s) (k : List Ctl) : Ready (withCalls k s) := { ready with }

theorem Ready.unanswered (ready : Ready s) (b : Byte) (l : List LineItem) : Ready (unanswered b l s) := { ready with }

theorem Ready.failing (ready : Ready s) : Ready (failing l s) := (ready.attempting.withCalls _).unanswered _ _

theorem failing_outcome (l : List LineItem) (s : State) :
    (failing l s).wctl = [.attempted (headerOf (stampedTelegram s))] ∧ (failing l s).wret = false ∧
    (failing l s).line = l ∧ (failing l s).lineOut = s.lineOut ++ [.write s.cfg.ownId .normal] ∧
    (failing l s).wlog = s.wlog ++ [.txEchoMissing 0] ∧ (failing l s).stats.txTotal = s.stats.txTotal + 1 := by
  simp [failing, unanswered, writeFails, withLine, withWrite, withCalls, attempting, stampTx, statsInc]

theorem failing_frame (l : List LineItem) (s : State) : (failing l s).outq = s.outq ∧ (failing l s).arb = s.arb ∧
    (failing l s).stats.txFail = s.stats.txFail ∧ (failing l s).tx.retries = s.tx.retries ∧
    (failing l s).tx.txpend = s.tx.txpend := by
  simp [failing, unanswered, writeFails, withLine, withWrite, withCalls, attempting, stampTx, statsInc]

/-- The drop is reported after the missing echo. -/
theorem givingUp_wlog_length (s : State) : (givingUp s).wlog.length = s.wlog.length + 1 := List.length_append

end

/-- Settles O35: the failed attempt, then `TX.RESULT` for a retry or, after the last, for the drop. -/
theorem invocationSilentLine : Obligations.InvocationSilentLine := by
  intro s l ts h notRaised pend within place line turns
  obtain ⟨ready, idle, assigned⟩ := h.atInvoke place notRaised
  have loaded : Loaded (withCalls [.pulled] s) := { h.loaded pend with }
  have pulledReady : Ready (withCalls [.pulled] s) := { ready with }
  have pulled : WorkerRun 2 s (withCalls [.pulled] s) := run_toPulled ready place fun ts =>
    exec_txPull_pending (s := withTurns ts (withCalls [.pulled] s)) pend
  have attempt := run_toAttempt loaded pulledReady pend within rfl
  have failed : WorkerRun 3 _ (failing l (withCalls [.pulled] s)) :=
    run_unanswered pulledReady.attempting idle rfl rfl line
  have returned := pulled.trans (attempt.trans failed)
  have returnedReady : Ready (failing l (withCalls [.pulled] s)) := pulledReady.failing
  obtain ⟨atReturn, no, left, wire, wlog, total⟩ := failing_outcome l (withCalls [.pulled] s)
  obtain ⟨outq, arb, fail, retries, kept⟩ := failing_frame l (withCalls [.pulled] s)
  generalize failing l (withCalls [.pulled] s) = v at *
  have bs : classState (headerOf (stampedTelegram (withCalls [.pulled] s))).dst v.arb.bs =
      classState (byteAt s.tx.txbuf 1) .assigned := by
    rw [headerOf_stampedTelegram_dst loaded, arb, ← assigned]
    rfl
  by_cases again : s.tx.retries < 5
  · have retried := run_retrying returnedReady atReturn no (retries ▸ again)
    refine ⟨_, (returned.trans retried).run_eq turns, ?_⟩
    dsimp only [withTurns, stateAfter, withCalls, retrying]
    exact ⟨wire, left, rfl, total,
      fun _ => ⟨kept.trans pend, congrArg (· + 1) retries, fail, wlog⟩, fun last => absurd last again.ne, bs, outq⟩
  · have dropped := run_givingUp returnedReady atReturn no (retries ▸ Nat.le_of_not_lt again)
    have events : (givingUp v).wlog.length = s.wlog.length + 2 := by
      rw [givingUp_wlog_length, wlog, List.length_append]
      rfl
    refine ⟨_, (returned.trans dropped).run_eq turns, ?_⟩
    dsimp only [withTurns, stateAfter, withCalls, givingUp, dropTx, count, statsInc, raiseW]
    exact ⟨wire, left, rfl, total,
      fun more => absurd more again, fun _ => ⟨rfl, rfl, congrArg (· + 1) fail, events⟩, bs, outq⟩

end Sys2Proof.Machine
end

section
/-! The checksum contract (43_checksum.md R230, R231). `Config.checksum` is opaque, so the only fact about it is which argument
it is given. -/

namespace Sys2Proof.Machine

/-- The operation is the shared write of `cks` that `TX.STAMP` also makes (R202, R230). -/
theorem exec_cksum (l : List Byte) (s : State) : exec (.cksum l) s = .next (computeChecksum l s) := rfl

/-- Settles O37: the one write of `computeChecksum` is that of `cks`, and its value is of the operand bytes. -/
theorem checksumOfBytesAlone : Obligations.ChecksumOfBytesAlone := exec_cksum

end Sys2Proof.Machine
end

section
/-! Operands, filters and the dispatch table in the terms of the rules (00_scope.md R12, 30_encoding.md R107, 44_decoder.md R244,
R251 to R256): what each shared function of the decoder gives, once, for the operations below. -/

namespace Sys2Proof

/-! ### Rows and keys (R107, R241, R251) -/

theorem bit7_eq_false_iff {v : Byte} : bit7 v = false ↔ v.toNat < 0x80 :=
  Bool.eq_false_iff.trans ((not_congr bit7_iff).trans Nat.not_le)

theorem dstMatches_iff {d : DstPattern} {b : Byte} :
    dstMatches d b = true ↔ (d = .anyWrite ∧ b.toNat < 0x80) ∨ d = .exact b := by
  cases d with
  | exact a => simp [dstMatches]
  | anyWrite => simp [dstMatches, bit7_eq_false_iff]

theorem subMatches_iff {pat sub : Option Byte} : subMatches pat sub = true ↔ pat = none ∨ pat = sub := by
  cases pat with
  | none => simp [subMatches]
  | some b => simp [subMatches, beq_iff_eq, @eq_comm _ sub]

section

variable {c : Cfg} {t : Telegram}

/-- Outside plus telegrams the sub-type plays no part (R107). -/
theorem rowMatches_of_notPlus (notPlus : byteAt t 2 ≠ typePlus) {r : Row} : rowMatches c t r = true ↔
    r.src = byteAt t 0 ∧ r.typ = byteAt t 2 ∧
      ((r.dst = .anyWrite ∧ (byteAt t 1).toNat < 0x80) ∨ r.dst = .exact (byteAt t 1)) := by
  simp only [rowMatches, Bool.and_eq_true, Bool.or_eq_true, beq_iff_eq, bne_iff_ne, dstMatches_iff, notPlus, ne_eq,
    not_false_eq_true, true_or, and_true, and_assoc]

/-- In plus telegrams the sub-type belongs to the key (R251). -/
theorem rowMatches_of_plus (plus : byteAt t 2 = typePlus) {r : Row} : rowMatches c t r = true ↔
    r.src = byteAt t 0 ∧ r.typ = typePlus ∧
      (r.dst = .exact (byteAt t 1) ∨ (r.dst = .anyWrite ∧ (byteAt t 1).toNat < 0x80)) ∧
      (r.sub = none ∨ r.sub = plusSub c t) := by
  simp only [rowMatches, Bool.and_eq_true, Bool.or_eq_true, beq_iff_eq, bne_iff_ne, dstMatches_iff, subMatches_iff, plus,
    ne_eq, not_true_eq_false, false_or, and_assoc, or_comm (a := r.dst = .exact _)]

/-- The first row with a property that says what matching says. -/
theorem findRow_eq_find? {p : Row → Prop} [DecidablePred p] (means : ∀ r, rowMatches c t r = true ↔ p r) :
    findRow c t = (dispatchTable c).find? fun r => decide (p r) := by
  have same : rowMatches c t = fun r => decide (p r) := funext fun r => (Bool.eq_iff_iff.mpr (by simp [means r]))
  rw [findRow, same]

/-- What a key with this outcome of the table selects: the guard of its row, or a report with its cause. -/
def selected (c : Cfg) (t : Telegram) (cause : UndecodedCause) : Instr :=
  match findRow c t with
  | none => .decUndecoded t cause
  | some r => .decGuard t (layoutMinLen r.layout)

theorem selected_of_row {cause : UndecodedCause} {r : Row} (row : findRow c t = some r) :
    selected c t cause = .decGuard t (layoutMinLen r.layout) := by rw [selected, row]

theorem selected_of_noRow {cause : UndecodedCause} (noRow : findRow c t = none) :
    selected c t cause = .decUndecoded t cause := by rw [selected, noRow]

theorem decodeKey_of_notPlus (notPlus : byteAt t 2 ≠ typePlus) :
    decodeKey c t = selected c t (if 0x80 ≤ (byteAt t 1).toNat then .readRequest else .unknownKey) := by
  simp only [decodeKey, if_neg notPlus, bit7_iff]
  rfl

end

end Sys2Proof

namespace Sys2Proof.Machine

/-! ### Big-endian operands (R12, R273) -/

/-- A byte appended below is the less significant. -/
theorem toNat_append_byte {n : Nat} (a : BitVec n) (b : Byte) : (a ++ b).toNat = a.toNat * 256 + b.toNat := by
  rw [BitVec.toNat_append, ← Nat.shiftLeft_add_eq_or_of_lt b.isLt, Nat.shiftLeft_eq]

theorem be16_eq (t : Telegram) (k : Nat) : be16 t k = (byteAt t k ++ byteAt t (k + 1)).toNat :=
  (toNat_append_byte _ _).symm

theorem be24_eq (t : Telegram) (k : Nat) : be24 t k = (byteAt t k ++ byteAt t (k + 1) ++ byteAt t (k + 2)).toNat := by
  rw [toNat_append_byte, toNat_append_byte, be24]
  omega

/-- `sext_16` is the two's complement reading of the word. -/
theorem sext16_be16 (t : Telegram) (k : Nat) : sext16 (be16 t k) = (byteAt t k ++ byteAt t (k + 1)).toInt := by
  rw [be16_eq, sext16, BitVec.toInt_eq_toNat_cond]
  split <;> split <;> omega

/-! ### The filters (R253 to R256) -/

/-- What a filter with this verdict reports (R244). -/
def filterReport (ok : Bool) (f : FilteredField) (v : Int) : List Event := if ok then [] else [.decFilterReject f v]

theorem filterReport_reject {ok : Bool} {f : FilteredField} {v : Int} {e : Event} (reported : e ∈ filterReport ok f v) :
    e = .decFilterReject f v := by
  cases ok with
  | true => cases reported
  | false => exact List.mem_singleton.mp reported

theorem applyFilter_report (ok : Bool) (f : FilteredField) (v : Int) (s : State) :
    applyFilter ok f v s = { s with dret := ok, dlog := s.dlog ++ filterReport ok f v } := by
  cases ok with
  | true => rw [applyFilter_true, filterReport, if_pos rfl, List.append_nil]
  | false => rfl

/-- The difference is exact, without wrap (R273). -/
theorem absDiff_eq_natAbs (a b : Nat) : absDiff a b = ((a : Int) - (b : Int)).natAbs := by
  rw [absDiff]
  omega

theorem startsOk_eq (c : Cfg) (v : Nat) : startsOk c v = decide (v ≠ 0 ∧ v ≤ c.startsMax) :=
  Bool.eq_iff_iff.mpr (by simp [startsOk])

/-- Before the first accepted value the range alone decides (R253). -/
theorem optimeOk_first (c : Cfg) (v : Nat) : optimeOk c none v =
    (decide (c.optimeMin ≤ v ∧ v ≤ c.optimeMax) && true) := by
  simp [optimeOk]

theorem optimeOk_next (c : Cfg) (last v : Nat) : optimeOk c (some last) v =
    (decide (c.optimeMin ≤ v ∧ v ≤ c.optimeMax) && decide (((v : Int) - (last : Int)).natAbs ≤ c.optimeMaxDelta)) := by
  simp [optimeOk, absDiff_eq_natAbs]

end Sys2Proof.Machine
end

section
/-! The decoder's operations one by one (44_decoder.md R240 to R256): what each leaves, in the terms of the rules. -/

namespace Sys2Proof.Machine

section

variable {s : State} {t : Telegram}

/-! ### Receiving, selecting, guarding (R240, R241, R243) -/

theorem exec_decRecv_empty (empty : s.inq = []) : exec .decRecv s = .next s := by rw [exec, execDecRecv, empty]; rfl

theorem exec_decRecv_short {p : List Byte} {q : List (List Byte)} (queue : s.inq = p :: q) (short : p.length < 6) :
    exec .decRecv s = .next { s with inq := q } := by
  rw [exec, execDecRecv, queue]
  exact if_pos short

theorem exec_decRecv_packet {p : List Byte} {q : List (List Byte)} (queue : s.inq = p :: q) (six : 6 ≤ p.length) :
    exec .decRecv s = .next (callD (.op (.decDispatch p)) { s with inq := q }) := by
  rw [exec, execDecRecv, queue]
  exact if_neg (Nat.not_lt_of_le six)

theorem exec_decDispatch (six : 6 ≤ t.length) : exec (.decDispatch t) s = .next (callD (.key t) s) := need_of_le _ six

theorem exec_decGuard_short {n : Nat} (short : t.length < n) :
    exec (.decGuard t n) s = .next (callD (.op (.decUndecoded t .tooShortForLayout)) s) := if_pos short

theorem exec_decGuard_long {n : Nat} (long : n ≤ t.length) : exec (.decGuard t n) s = .next (callD (.layout t) s) :=
  if_neg (Nat.not_lt_of_le long)

theorem exec_decUndecoded (cause : UndecodedCause) :
    exec (.decUndecoded t cause) s = .next (raiseD (.decUndecoded cause t) s) := rfl

/-- The plus rule calls what its key selects (R251). -/
theorem exec_decPlus (six : 6 ≤ t.length) :
    exec (.decPlus t) s = .next (callD (.op (selected s.cfg t (.plus (plusSub s.cfg t)))) s) := by
  rw [exec, execDecPlus, need_of_le _ six]
  cases row : findRow s.cfg t with
  | none => rw [selected_of_noRow row]
  | some r => rw [selected_of_row row]

end

/-! ### The statements -/

/-- Settles O38, by the packet at the head of `INQ`. -/
theorem decRecv : Obligations.DecRecv := fun _ =>
  ⟨exec_decRecv_empty, fun _ _ => exec_decRecv_short, fun _ _ => exec_decRecv_packet⟩

/-- Settles O39: outside plus telegrams the table is searched for the whole key. -/
theorem decDispatch : Obligations.DecDispatch := by
  intro s t six fit
  have key : decode s.cfg .key t = .ok (decodeKey s.cfg t) := decode_key (isDataLen_iff.mpr ⟨six, fit⟩)
  refine ⟨exec_decDispatch six, fun plus => key.trans (congrArg _ (decodeKey_of_plus plus)), fun notPlus => ?_⟩
  rw [key, decodeKey_of_notPlus notPlus, ← findRow_eq_find? fun _ => rowMatches_of_notPlus notPlus]
  cases row : findRow s.cfg t with
  | none => rw [selected_of_noRow row]
  | some r => rw [selected_of_row row]

/-- Settles O40, by the telegram's length against the bound; the six bounds are the model's own table. -/
theorem decGuard : Obligations.DecGuard := fun _ _ _ =>
  ⟨exec_decGuard_short, exec_decGuard_long, rfl, rfl, rfl, rfl, rfl, rfl⟩

/-- Settles O44: a plus telegram's key is searched with its sub-type. -/
theorem decPlusUndecoded : Obligations.DecPlusUndecoded := by
  intro s t cause
  refine ⟨exec_decUndecoded cause, fun six plus => ?_⟩
  rw [exec_decPlus six, selected, findRow_eq_find? fun _ => rowMatches_of_plus plus]
  rfl

/-- Settles O45: each filter is `applyFilter` with its verdict. -/
theorem filterVerdicts : Obligations.FilterVerdicts := by
  intro s v x
  refine ⟨?optime, ?starts, congrArg _ (applyFilter_report (exhaustOk s.cfg x) .slowExhaustTemp x s), rfl⟩
  case starts =>
    rw [exec, execFltStarts, filterStarts, applyFilter_report, startsOk_eq]
    rfl
  case optime =>
    rw [exec, execFltOptime, filterOptime, applyFilter_report]
    cases s.store.slow.optimeMin with
    | none => rw [optimeOk_first]; rfl
    | some last => rw [optimeOk_next]; rfl

end Sys2Proof.Machine
end

section
/-! The six layouts (44_decoder.md R244 to R250): what each commits, reports and answers, as functions of the configuration, the
telegram and the store before it, and the one equation that ties them to the operations. -/

namespace Sys2Proof.Machine

/-! ### The filtered record (R246) -/

/-- The stored field after a candidate `v` with this verdict (R244). -/
def filtered {α : Type} (ok : Bool) (v : α) (old : Option α) : Option α := if ok then some v else old

/-- The exhaust field after its candidate, if the telegram has one. -/
def exhaustStored (c : Cfg) (old : Option Int) : Option Int → Option Int
  | none => old
  | some v => filtered (exhaustOk c v) v old

/-- What the exhaust filter reports of the candidate. -/
def exhaustReport (c : Cfg) : Option Int → List Event
  | none => []
  | some v => filterReport (exhaustOk c v) .slowExhaustTemp v

/-- The last verdict of `DEC.UBA_SLOW`: the exhaust filter's, or that of the unfiltered bits. -/
def exhaustVerdict (c : Cfg) : Option Int → Bool
  | none => true
  | some v => exhaustOk c v

/-- `REC_UBA_SLOW` after the telegram. -/
def slowStored (c : Cfg) (t : Telegram) (r : RecSlow) : RecSlow where
  starts := filtered (startsOk c (be24 t 12)) (be24 t 12) r.starts
  optimeMin := filtered (optimeOk c r.optimeMin (be24 t 15)) (be24 t 15) r.optimeMin
  burner := some (bitAt t 4 2)
  blower := some (bitAt t 4 1)
  circPump := some (bitAt t 4 7)
  pump := some (bitAt t 4 5)
  exhaustTemp := exhaustStored c r.exhaustTemp (exhaustCandidate c t)

/-- The rejects of `DEC.UBA_SLOW`, in the order of its fields. -/
def slowReports (c : Cfg) (t : Telegram) (r : RecSlow) : List Event :=
  filterReport (startsOk c (be24 t 12)) .slowStarts (be24 t 12) ++
    filterReport (optimeOk c r.optimeMin (be24 t 15)) .slowOptimeMin (be24 t 15) ++
    exhaustReport c (exhaustCandidate c t)

/-! ### Every layout -/

/-- The result store after a layout. -/
def layoutStore (c : Cfg) (t : Telegram) (st : Store) : Layout → Store
  | .ubaFast => { st with fast :=
      { setpoint := some (natAt t 10), boilerTemp := some (sext16 (be16 t 11)), power := some (natAt t 14),
        status := some (natAt t 15), flameCurrent := some (be16 t 23) } }
  | .ubaSlow => { st with slow := slowStored c t st.slow }
  | .ubaWw => { st with ww :=
      { temp := some (sext16 (be16 t 5)), setpoint := some (natAt t 4), circPump := some (bitAt t 17 2) } }
  | .rcTime => { st with time :=
      { year := some (2000 + natAt t 4), month := some (natAt t 5), hour := some (natAt t 6), day := some (natAt t 7),
        minute := some (natAt t 8), second := some (natAt t 9), dow := some (natAt t 10),
        dst := some (byteAt t 11 != 0) } }
  | .rcMode => { st with mode :=
      { nightSp := some (natAt t 5), daySp := some (natAt t 6), holidaySp := some (natAt t 7), mode := some (natAt t 11),
        summerThr := some (natAt t 26) } }
  | .ubaErr => { st with err :=
      { model := some (natAt t c.ubaErrOffModel), e1 := some (natAt t c.ubaErrOffE1), e2 := some (natAt t c.ubaErrOffE2),
        e3 := some (natAt t c.ubaErrOffE3) } }

/-- What a layout reports: only the slow monitor's fields are filtered. -/
def layoutReports (c : Cfg) (t : Telegram) (st : Store) : Layout → List Event
  | .ubaSlow => slowReports c t st.slow
  | _ => []

/-- The verdict a layout leaves in `dret`. -/
def layoutVerdict (c : Cfg) (t : Telegram) : Layout → Bool
  | .ubaSlow => exhaustVerdict c (exhaustCandidate c t)
  | _ => true

/-- The bytes a layout needs: `row.min_len`, or more where the UBA error's offsets reach further (R250). -/
def layoutNeed (c : Cfg) : Layout → Nat
  | .ubaErr => max 13 (max (max c.ubaErrOffModel c.ubaErrOffE1) (max c.ubaErrOffE2 c.ubaErrOffE3) + 2)
  | l => layoutMinLen l

/-- The state after a layout. -/
def layoutApplied (t : Telegram) (l : Layout) (s : State) : State :=
  { s with
    dret := layoutVerdict s.cfg t l
    dlog := s.dlog ++ layoutReports s.cfg t s.store l
    store := layoutStore s.cfg t s.store l }

section

variable {s : State} {t : Telegram} {c : Cfg} {l : Layout}

/-- Committing an accepted candidate, or none, is storing it filtered (R70, R244). -/
theorem updated_ifAccepted {α : Type} (s : State) (v : α) (old : Option α) :
    updated (ifAccepted s v) old = filtered s.dret v old := by
  cases ok : s.dret <;> simp [ifAccepted_eq, filtered, ok]

theorem exec_decUbaSlow (t : Telegram) (s : State) :
    exec (.decUbaSlow t) s = need 19 t (.next (layoutApplied t .ubaSlow s)) := by
  refine congrArg (fun u => need 19 t (.next u)) ?_
  simp only [filterStarts, filterOptime, filterPass, filterExhaust, applyFilter_report, commitSlow, updated_ifAccepted,
    layoutApplied, layoutReports, slowReports, ← List.append_assoc]
  cases candidate : exhaustCandidate s.cfg t with
  | none =>
    rw [exhaustReport, List.append_nil, layoutStore, slowStored, layoutVerdict, candidate]
    rfl
  | some v =>
    simp only [updated_ifAccepted, layoutStore, slowStored, layoutVerdict, candidate]
    rfl

theorem layoutApplied_unfiltered (unfiltered : layoutReports s.cfg t s.store l = []) : layoutApplied t l s =
    { s with dret := layoutVerdict s.cfg t l, store := layoutStore s.cfg t s.store l } := by
  rw [layoutApplied, unfiltered, List.append_nil]

/-- What a layout does, for every layout, telegram and state (R244 to R250). -/
theorem exec_layoutInstr (t : Telegram) (l : Layout) (s : State) :
    exec (layoutInstr t l) s = need (layoutNeed s.cfg l) t (.next (layoutApplied t l s)) := by
  cases l with
  | ubaSlow => exact exec_decUbaSlow t s
  | ubaFast | ubaWw | rcTime | rcMode | ubaErr => rw [layoutApplied_unfiltered rfl]; rfl

/-- A layout without a filtered field reports nothing. -/
theorem exec_layoutInstr_unfiltered (long : layoutNeed s.cfg l ≤ t.length)
    (unfiltered : layoutReports s.cfg t s.store l = []) :
    exec (layoutInstr t l) s = .next
      { s with dret := layoutVerdict s.cfg t l, store := layoutStore s.cfg t s.store l } := by
  rw [exec_layoutInstr, need_of_le _ long, layoutApplied_unfiltered unfiltered]

/-- Within R336 the offsets of the UBA error are at most 11, so `row.min_len` is enough for every layout. -/
theorem layoutNeed_of_admitted (admitted : configOk c = true) : layoutNeed c l = layoutMinLen l := by
  cases l with
  | ubaErr =>
    simp only [configOk, errOffOk, Bool.and_eq_true, decide_eq_true_eq] at admitted
    simp only [layoutNeed, layoutMinLen]
    omega
  | ubaFast | ubaSlow | ubaWw | rcTime | rcMode => rfl

theorem exec_layoutInstr_long (admitted : configOk s.cfg = true) (long : layoutMinLen l ≤ t.length) :
    exec (layoutInstr t l) s = .next (layoutApplied t l s) := by
  rw [exec_layoutInstr, layoutNeed_of_admitted admitted, need_of_le _ long]

theorem layoutReports_reject {st : Store} {e : Event} (reported : e ∈ layoutReports c t st l) :
    ∃ f v, e = .decFilterReject f v := by
  cases l with
  | ubaSlow =>
    obtain starts | exhaust := List.mem_append.mp reported
    · obtain starts | optime := List.mem_append.mp starts
      · exact ⟨_, _, filterReport_reject starts⟩
      · exact ⟨_, _, filterReport_reject optime⟩
    · cases candidate : exhaustCandidate c t with
      | none => rw [candidate] at exhaust; cases exhaust
      | some v => rw [candidate] at exhaust; exact ⟨_, _, filterReport_reject exhaust⟩
  | ubaFast | ubaWw | rcTime | rcMode | ubaErr => cases reported

/-! ### A layout twice (R253) -/

theorem filtered_filtered {α : Type} (ok : Bool) (v : α) (old : Option α) :
    filtered ok v (filtered ok v old) = filtered ok v old := by cases ok <;> rfl

/-- The verdict on a counter is the same once the store holds what the verdict left. -/
theorem optimeOk_filtered (c : Cfg) (old : Option Nat) (v : Nat) :
    optimeOk c (filtered (optimeOk c old v) v old) v = optimeOk c old v := by
  cases ok : optimeOk c old v with
  | true => exact optimeOk_self ok
  | false => exact ok

theorem exhaustStored_exhaustStored (old x : Option Int) :
    exhaustStored c (exhaustStored c old x) x = exhaustStored c old x := by
  cases x with
  | none => rfl
  | some v => exact filtered_filtered _ v old

theorem slowStored_slowStored (r : RecSlow) : slowStored c t (slowStored c t r) = slowStored c t r := by
  simp only [slowStored, filtered_filtered, optimeOk_filtered, exhaustStored_exhaustStored]

theorem layoutStore_layoutStore (st : Store) : layoutStore c t (layoutStore c t st l) l = layoutStore c t st l := by
  cases l with
  | ubaSlow => exact congrArg (fun r => { st with slow := r }) (slowStored_slowStored st.slow)
  | ubaFast | ubaWw | rcTime | rcMode | ubaErr => rfl

end

/-- Settles O46: the second run passes the same length guard, and the store of a layout is idempotent. -/
theorem layoutIdempotent : Obligations.LayoutIdempotent := by
  intro s u t l run
  obtain ⟨long, applied⟩ := need_eq_next.mp ((exec_layoutInstr t l s).symm.trans run)
  cases applied
  exact ⟨_, (exec_layoutInstr t l _).trans (need_of_le _ long), layoutStore_layoutStore s.store⟩

/-- Settles O41: two layouts of unfiltered fields, with the words of two bytes read as words. -/
theorem decBoilerMonitors : Obligations.DecBoilerMonitors := by
  refine fun s t => ⟨fun long => ?fast, fun long => ?ww⟩
  case fast =>
    refine (exec_layoutInstr_unfiltered (l := .ubaFast) long rfl).trans ?_
    rw [layoutStore, sext16_be16, be16_eq]
    rfl
  case ww =>
    refine (exec_layoutInstr_unfiltered (l := .ubaWw) long rfl).trans ?_
    rw [layoutStore, sext16_be16]
    rfl

/-- Settles O43: three layouts of unfiltered fields; within R336 the offsets of the UBA error lie below byte 12. -/
theorem decThermostatErr : Obligations.DecThermostatErr := by
  refine fun s t => ⟨fun long => ?time, fun long => exec_layoutInstr_unfiltered (l := .rcMode) long rfl,
    fun long admitted => ?err⟩
  case time =>
    have dst : (byteAt t 11 != 0) = decide (byteAt t 11 ≠ 0) := Bool.eq_iff_iff.mpr (by simp)
    refine (exec_layoutInstr_unfiltered (l := .rcTime) long rfl).trans ?_
    rw [layoutStore, dst]
    rfl
  case err =>
    have enough : layoutNeed s.cfg .ubaErr ≤ t.length := (layoutNeed_of_admitted admitted).trans_le long
    exact exec_layoutInstr_unfiltered enough rfl

/-- Settles O42: the candidates as the rule reads them, then by whether the telegram has an exhaust field. -/
theorem decUbaSlow : Obligations.DecUbaSlow := by
  intro s t long a m x okA okM okX
  have starts : be24 t 12 = a := be24_eq t 12
  have optime : be24 t 15 = m := be24_eq t 15
  have candidate : exhaustCandidate s.cfg t = x := by
    simp only [exhaustCandidate, sext16_be16]
    rfl
  refine ⟨layoutApplied t .ubaSlow s, (exec_decUbaSlow t s).trans (need_of_le _ long), ?_⟩
  rw [layoutApplied, layoutStore, layoutReports, slowStored, slowReports, starts, optime, candidate, ← List.append_assoc,
    ← List.append_assoc]
  clear_value x
  cases x with
  | none => rfl
  | some v => rfl

end Sys2Proof.Machine
end

section
/-! One packet from the head of `INQ` to its end (44_decoder.md R240 to R243, R257): the decoder agent's turns one by one, and the
ways a packet can end. -/

namespace Sys2Proof.Machine

/-! ### Turns of the decoder agent alone -/

/-- `s` with these calls of the decoder agent pending. -/
def withDCalls (k : List DCtl) (s : State) : State := { s with dctl := k }

/-- `s` with this queue from the worker. -/
def withInq (q : List (List Byte)) (s : State) : State := { s with inq := q }

/-- `n` turns of the decoder agent lead from `s` to `u`, whatever turns come after them. -/
def DecoderRun (n : Nat) (s u : State) : Prop :=
  ∀ ts, Sys2Proof.core.run n (withTurns (List.replicate n .decoder ++ ts) s) = .next (withTurns ts u)

namespace DecoderRun

variable {s v u : State} {n m : Nat}

theorem trans (first : DecoderRun n s v) (second : DecoderRun m v u) : DecoderRun (n + m) s u := fun ts => by
  have start := first (List.replicate m .decoder ++ ts)
  rw [← List.append_assoc, ← List.replicate_add] at start
  exact (run_add n m start).trans (second ts)

/-- The operation that a pending call selects. -/
theorem call {c : DCtl} {i : Instr} (admitted : configOk s.cfg = true) (place : s.dctl = [c])
    (decoded : decode s.cfg (dctlPoint c).1 (dctlPoint c).2 = .ok i)
    (executed : ∀ ts, exec i (withTurns ts (withDCalls [] s)) = .next (withTurns ts u)) : DecoderRun 1 s u := fun ts => by
  have fetched : step (withTurns (.decoder :: ts) s) =
      runFetched (decode s.cfg (dctlPoint c).1 (dctlPoint c).2, withTurns ts (withDCalls [] s)) :=
    step_decoderCall (s := withTurns (.decoder :: ts) s) admitted rfl place
  rw [decoded] at fetched
  exact run_succ 0 (fetched.trans (executed ts))

/-- The run of a state whose next turns are the decoder agent's. -/
theorem run_eq {ts : List Turn} (h : DecoderRun n s u) (turns : s.turns = List.replicate n .decoder ++ ts) :
    Sys2Proof.core.run n s = .next (withTurns ts u) := by
  have run := h ts
  rwa [← turns] at run

end DecoderRun

section

variable {s : State} {t : Telegram} {q : List (List Byte)}

/-! ### The turns (R240, R241) -/

theorem callD_of_idle {c : DCtl} (idle : s.dctl = []) : callD c s = withDCalls [c] s := by rw [callD, idle, withDCalls]

theorem run_receive {u : State} (admitted : configOk s.cfg = true) (idle : s.dctl = [])
    (executed : ∀ ts, exec .decRecv (withTurns ts s) = .next (withTurns ts u)) : DecoderRun 1 s u := fun ts =>
  run_succ 0 ((step_decoderIdle (s := withTurns (.decoder :: ts) s) admitted rfl idle).trans (executed ts))

/-- A packet of at least 6 bytes stands at its key after two turns. -/
theorem run_toKey (admitted : configOk s.cfg = true) (idle : s.dctl = []) (queue : s.inq = t :: q) (six : 6 ≤ t.length) :
    DecoderRun 2 s (withDCalls [.key t] (withInq q s)) := by
  have received : DecoderRun 1 s (withDCalls [.op (.decDispatch t)] (withInq q s)) :=
    run_receive admitted idle fun ts => (exec_decRecv_packet (s := withTurns ts s) queue six).trans
      (congrArg _ (callD_of_idle (s := withTurns ts (withInq q s)) idle))
  exact received.trans (.call admitted rfl rfl fun _ => exec_decDispatch six)

end

/-! ### How a packet ends (R257) -/

/-- What the turns after the selection make of a telegram: one report, or the layout of its row. -/
inductive Drained (t : Telegram) (s : State) : State → Prop
  | undecoded (cause : UndecodedCause) : Drained t s (raiseD (.decUndecoded cause t) s)
  | applied {r : Row} (row : findRow s.cfg t = some r) (long : layoutMinLen r.layout ≤ t.length) :
      Drained t s (layoutApplied t r.layout s)

section

variable {s : State} {t : Telegram} {q : List (List Byte)} {c : DCtl}

/-- The guard of the row passed, the layout is applied in the second turn (R243). -/
theorem run_row {r : Row} (admitted : configOk s.cfg = true) (place : s.dctl = [c])
    (decoded : decode s.cfg (dctlPoint c).1 (dctlPoint c).2 = .ok (.decGuard t (layoutMinLen r.layout)))
    (row : findRow s.cfg t = some r) (long : layoutMinLen r.layout ≤ t.length) :
    DecoderRun 2 s (layoutApplied t r.layout (withDCalls [] s)) := by
  have guarded : DecoderRun 1 s (withDCalls [.layout t] s) := .call admitted place decoded fun _ => exec_decGuard_long long
  have layout : decode s.cfg .layout t = .ok (layoutInstr t r.layout) :=
    decode_layout (Option.map_eq_some_iff.mpr ⟨r, row, rfl⟩)
  have applied : DecoderRun 1 (withDCalls [.layout t] s) (layoutApplied t r.layout (withDCalls [] s)) :=
    .call admitted rfl layout fun ts => exec_layoutInstr_long (s := withTurns ts (withDCalls [] s)) admitted long
  exact guarded.trans applied

/-- What the key selected ends in at most two turns. -/
theorem run_selected {cause : UndecodedCause} (admitted : configOk s.cfg = true) (place : s.dctl = [c])
    (decoded : decode s.cfg (dctlPoint c).1 (dctlPoint c).2 = .ok (selected s.cfg t cause)) :
    ∃ n u, n ≤ 2 ∧ DecoderRun n s u ∧ Drained t (withDCalls [] s) u := by
  cases row : findRow s.cfg t with
  | none =>
    rw [selected_of_noRow row] at decoded
    exact ⟨1, _, by decide, .call admitted place decoded fun _ => rfl, .undecoded cause⟩
  | some r =>
    rw [selected_of_row row] at decoded
    by_cases long : layoutMinLen r.layout ≤ t.length
    · exact ⟨2, _, le_rfl, run_row admitted place decoded row long, .applied row long⟩
    · have guarded : DecoderRun 1 s (withDCalls [.op (.decUndecoded t .tooShortForLayout)] s) :=
        .call admitted place decoded fun _ => exec_decGuard_short (Nat.lt_of_not_le long)
      exact ⟨2, _, le_rfl, guarded.trans (.call admitted rfl rfl fun _ => rfl), .undecoded _⟩

/-- From its key a telegram ends in at most three turns: a plus telegram's row is found one turn later (R241, R251). -/
theorem run_key (admitted : configOk s.cfg = true) (place : s.dctl = [.key t]) (data : isDataLen t = true) :
    ∃ n u, n ≤ 3 ∧ DecoderRun n s u ∧ Drained t (withDCalls [] s) u := by
  have key : decode s.cfg .key t = .ok (decodeKey s.cfg t) := decode_key data
  by_cases plus : byteAt t 2 = typePlus
  · rw [decodeKey_of_plus plus] at key
    have called : DecoderRun 1 s (withDCalls [.op (selected s.cfg t (.plus (plusSub s.cfg t)))] s) :=
      .call admitted place key fun _ => exec_decPlus (isDataLen_iff.mp data).1
    obtain ⟨n, u, le, run, drained⟩ := run_selected (t := t)
      (s := withDCalls [.op (selected s.cfg t (.plus (plusSub s.cfg t)))] s) admitted rfl rfl
    exact ⟨1 + n, u, by omega, called.trans run, drained⟩
  · rw [decodeKey_of_notPlus plus] at key
    obtain ⟨n, u, le, run, drained⟩ := run_selected admitted place key
    exact ⟨n, u, by omega, run, drained⟩

end

/-- Settles O48: two turns to the key, then the guard and the layout of its row. -/
theorem decoderAppliesRow : Obligations.DecoderAppliesRow := by
  intro s p q ts r admitted idle queue six fit notPlus row long turns
  have guard : decode s.cfg .key p = .ok (.decGuard p (layoutMinLen r.layout)) := by
    rw [decode_key (isDataLen_iff.mpr ⟨six, fit⟩), decodeKey_of_notPlus notPlus, selected_of_row row]
  have applied : DecoderRun 2 (withDCalls [.key p] (withInq q s)) _ := run_row admitted rfl guard row long
  have executed := exec_layoutInstr_long (s := { s with inq := q, turns := ts }) admitted long
  rw [((run_toKey admitted idle queue six).trans applied).run_eq turns, executed, withDCalls, ← idle]
  rfl

/-- Settles O47: a short packet is dropped in the first turn; any other stands at its key after two and ends in three more. -/
theorem decoderDrains : Obligations.DecoderDrains := by
  intro s p q ts admitted idle queue fit turns
  by_cases six : 6 ≤ p.length
  · have data : isDataLen p = true := isDataLen_iff.mpr ⟨six, fit⟩
    obtain ⟨n, u, le, run, drained⟩ := run_key (s := withDCalls [.key p] (withInq q s)) admitted rfl data
    have split : s.turns = List.replicate (2 + n) .decoder ++ (List.replicate (3 - n) .decoder ++ ts) := by
      rw [turns, ← List.append_assoc, ← List.replicate_add, show 2 + n + (3 - n) = 5 by omega]
    refine ⟨2 + n, _, by omega, by omega, ((run_toKey admitted idle queue six).trans run).run_eq split, ?_⟩
    cases drained with
    | undecoded cause =>
      have worker : SameWorker s (raiseD (.decUndecoded cause p) (withDCalls [] (withInq q s))) := by
        simp [SameWorker, withDCalls, withInq]
      exact ⟨rfl, rfl, worker, .inr (.inl ⟨cause, rfl, rfl⟩)⟩
    | @applied r row long =>
      have worker : SameWorker s (layoutApplied p r.layout (withDCalls [] (withInq q s))) := by
        simp [SameWorker, withDCalls, withInq, layoutApplied]
      exact ⟨rfl, rfl, worker, .inr (.inr ⟨r, layoutApplied p r.layout s, layoutReports s.cfg p s.store r.layout, row, long,
        exec_layoutInstr_long admitted long, rfl, rfl, fun _ => layoutReports_reject⟩)⟩
  · have short : p.length < 6 := Nat.lt_of_not_le six
    have dropped : DecoderRun 1 s (withInq q s) := run_receive admitted idle fun _ => exec_decRecv_short queue short
    have worker : SameWorker s (withInq q s) := by simp [SameWorker, withInq]
    exact ⟨1, _, le_rfl, by decide, dropped.run_eq turns, idle, rfl, worker, .inl ⟨short, rfl, rfl⟩⟩

end Sys2Proof.Machine
end

section
/-! Whose operation each one is and what its guard asks (00_scope.md R11; 60_exceptions.md R306): an operation whose guard is met
answers a next state, and from a state with the invariant each agent fetches an operation of its own whose guard is met. -/

namespace Sys2Proof.Machine

/-! ### Agents and guards -/

/-- The two agents of the machine (R276, R277, R306). -/
inductive Agent where
  | worker
  | decoder

/-- The agent that runs an operation: the decoder agent the `DEC` and `FLT` ones, the worker every other. -/
def agentOf : Instr → Agent
  | .decRecv | .decDispatch _ | .decGuard _ _ | .decUbaFast _ | .decUbaSlow _ | .decUbaWw _ | .decRcTime _ | .decRcMode _
  | .decUbaErr _ | .decPlus _ | .decUndecoded _ _ | .fltOptime _ | .fltStarts _ | .fltExhaust _ | .fltPass => .decoder
  | _ => .worker

/-- What an operation asks before it has a meaning: the length guard of its rule (R11), the precondition of `QPush` (R66), a
phase its telegram has (R35). -/
def GuardMet (c : Cfg) (x : TxAttempt) : Instr → Prop
  | .dataEvent t | .dataAddr t | .dataPreempt t | .dataUnassigned t | .dataWrongsender t | .dataClassify t | .dataReadreq t
  | .dataWrite t | .dataBcast t | .dataReadresp t _ | .dataInwrote t | .decDispatch t | .decPlus t => 6 ≤ t.length
  | .dataAccept t => packetOk t = true
  | .txStamp => 6 ≤ (x.txbuf.take x.txlen).length
  | .txWrite t => phaseFits x.txp t = true
  | .decUbaFast t => layoutNeed c .ubaFast ≤ t.length
  | .decUbaSlow t => layoutNeed c .ubaSlow ≤ t.length
  | .decUbaWw t => layoutNeed c .ubaWw ≤ t.length
  | .decRcTime t => layoutNeed c .rcTime ≤ t.length
  | .decRcMode t => layoutNeed c .rcMode ≤ t.length
  | .decUbaErr t => layoutNeed c .ubaErr ≤ t.length
  | _ => True

section

variable {s : State}

theorem exec_macAssign_answers (id : DevId) : ∃ u, exec (.macAssign id) s = .next u := by
  simp only [exec, execMacAssign]
  split <;> exact ⟨_, rfl⟩

theorem exec_txPull_answers : ∃ u, exec .txPull s = .next u := by
  cases pend : s.tx.txpend with
  | true => exact ⟨_, exec_txPull_pending pend⟩
  | false =>
    cases queue : s.outq with
    | nil => exact ⟨_, exec_txPull_empty pend queue⟩
    | cons p q =>
      obtain six | short := le_or_gt 6 p.length
      · exact ⟨_, exec_txPull_packet pend queue six⟩
      · exact ⟨_, exec_txPull_short pend queue short⟩

theorem exec_txBudget_answers : ∃ u, exec .txBudget s = .next u := by
  obtain within | late := le_or_gt (s.now - s.tx.acqTime) 200
  · exact ⟨_, exec_txBudget_within within⟩
  · exact ⟨_, exec_txBudget_over late⟩

theorem exec_txResult_answers (ok : Bool) : ∃ u, exec (.txResult ok) s = .next u := by
  cases ok with
  | true => exact ⟨_, exec_txResult_success⟩
  | false =>
    obtain last | again := le_or_gt 5 s.tx.retries
    · exact ⟨_, exec_txResult_drop last⟩
    · exact ⟨_, exec_txResult_retry again⟩

/-- `WriteTelegram` goes on from a wait for the echo of a byte its telegram has (R35, R205). -/
theorem exec_txWrite_answers {t : Telegram} (fits : phaseFits s.tx.txp t = true) : ∃ u, exec (.txWrite t) s = .next u := by
  cases phase : s.tx.txp with
  | idle => exact ⟨_, exec_txWrite_idle phase⟩
  | echo i =>
    rw [phase] at fits
    have inside : i < t.length := of_decide_eq_true fits
    exact ⟨_, exec_txWrite_echo phase (List.getElem?_eq_getElem inside) rfl⟩
  | echo2 i => exact ⟨_, exec_txWrite_echo2 phase rfl⟩
  | act => exact ⟨_, exec_txWrite_act phase rfl⟩

theorem exec_decRecv_answers : ∃ u, exec .decRecv s = .next u := by
  cases queue : s.inq with
  | nil => exact ⟨_, exec_decRecv_empty queue⟩
  | cons p q =>
    obtain six | short := le_or_gt 6 p.length
    · exact ⟨_, exec_decRecv_packet queue six⟩
    · exact ⟨_, exec_decRecv_short queue short⟩

theorem exec_decGuard_answers (t : Telegram) (n : Nat) : ∃ u, exec (.decGuard t n) s = .next u := by
  obtain long | short := le_or_gt n t.length
  · exact ⟨_, exec_decGuard_long long⟩
  · exact ⟨_, exec_decGuard_short short⟩

theorem exec_layoutInstr_answers {t : Telegram} {l : Layout} (long : layoutNeed s.cfg l ≤ t.length) :
    ∃ u, exec (layoutInstr t l) s = .next u :=
  ⟨_, (exec_layoutInstr t l s).trans (need_of_le _ long)⟩

/-- An operation whose guard is met neither faults nor is refused. -/
theorem exec_answers {i : Instr} (h : GuardMet s.cfg s.tx i) : ∃ u, exec i s = .next u := by
  cases i with
  | rxEsc | rxData | rxLitff | rxMark | rxBadesc | rxBreak | rxBreak0 | rxBadmark | rxTmo | txwByte | txwBreak | tgMac |
    tgLong | tgShort | macAck | macRel | macRsvd | txInvoke | txAttempt | cksum | decUndecoded | fltOptime | fltStarts |
    fltExhaust | fltPass | sysStop =>
    exact ⟨_, rfl⟩
  | macAssign id => exact exec_macAssign_answers id
  | dataEvent | dataAddr | dataPreempt | dataUnassigned | dataWrongsender | dataClassify | dataReadreq | dataWrite |
    dataBcast | dataInwrote | txStamp | decDispatch =>
    exact ⟨_, need_of_le _ h⟩
  | dataReadresp t m => cases m <;> exact ⟨_, need_of_le _ h⟩
  | dataAccept t => exact ⟨_, if_pos h⟩
  | txPull => exact exec_txPull_answers
  | txBudget => exact exec_txBudget_answers
  | txWrite t => exact exec_txWrite_answers h
  | txResult ok => exact exec_txResult_answers ok
  | txState hdr => exact ⟨_, exec_txState hdr⟩
  | txRelease part => cases part <;> exact ⟨_, rfl⟩
  | decRecv => exact exec_decRecv_answers
  | decGuard t n => exact exec_decGuard_answers t n
  | decUbaFast | decUbaSlow | decUbaWw | decRcTime | decRcMode | decUbaErr => exact exec_layoutInstr_answers h
  | decPlus t => exact ⟨_, exec_decPlus h⟩

end

/-! ### What is selected at each point -/

/-- An operation is the agent's own and its guard is met. -/
structure Serves (a : Agent) (c : Cfg) (x : TxAttempt) (i : Instr) : Prop where
  agent : agentOf i = a
  guard : GuardMet c x i

section

variable {c : Cfg} {x : TxAttempt} {t : Telegram}

theorem serves_decodeRaw (fs : FramerState) (rxEmpty : Bool) (b : Byte) : Serves .worker c x (decodeRaw fs rxEmpty b) := by
  cases fs <;> simp only [decodeRaw] <;> split_ifs <;> exact ⟨rfl, trivial⟩

theorem serves_decodeMac (v : Byte) : Serves .worker c x (decodeMac v) := by
  unfold decodeMac
  split_ifs <;> exact ⟨rfl, trivial⟩

theorem serves_decodeCase (six : 6 ≤ t.length) (bs : BusState) (polled : Option DevId) (m : Bool) :
    Serves .worker c x (decodeCase c bs polled m t) := by
  cases bs with
  | released | assigned => simp only [decodeCase]; split_ifs <;> exact ⟨rfl, six⟩
  | read | wrote => exact ⟨rfl, six⟩

theorem serves_decodeEvent (six : 6 ≤ t.length) (bs : BusState) (polled : Option DevId) (m : Bool) :
    Serves .worker c x (decodeEvent c bs polled m t) := by
  unfold decodeEvent
  split_ifs
  · exact ⟨rfl, six⟩
  · exact ⟨rfl, six⟩
  · exact serves_decodeCase six bs polled m

theorem serves_decodeDest (six : 6 ≤ t.length) : Serves .worker c x (decodeDest t) := by
  unfold decodeDest
  split_ifs <;> exact ⟨rfl, six⟩

theorem serves_decodeKey (six : 6 ≤ t.length) : Serves .decoder c x (decodeKey c t) := by
  unfold decodeKey
  split
  · exact ⟨rfl, six⟩
  · split <;> exact ⟨rfl, trivial⟩

theorem serves_layoutInstr {l : Layout} (long : layoutNeed c l ≤ t.length) : Serves .decoder c x (layoutInstr t l) := by
  cases l <;> exact ⟨rfl, long⟩

end

/-! ### What each agent fetches -/

section

variable {s : State}

theorem Loaded.six_le_txTelegram (loaded : Loaded s) : 6 ≤ (txTelegram s).length := by
  obtain ⟨size, six, fit⟩ := loaded
  rw [txTelegram, List.length_take]
  omega

/-- A pending call of the worker, place by place. -/
theorem WorkerPlace.selects {c : Ctl} {k : List Ctl} (h : Inv s) (place : WorkerPlace s (c :: k)) :
    ∃ i, decode s.cfg (ctlPoint s c).1 (ctlPoint s c).2.1 = .ok i ∧ Serves .worker s.cfg s.tx i := by
  cases place with
  | @telegram t idle packet =>
    obtain ⟨one, fit⟩ := packetOk_iff.mp packet
    obtain two | short := le_or_gt 2 t.length
    · exact ⟨_, decode_telegram_long two fit, rfl, trivial⟩
    · obtain ⟨v, rfl⟩ := List.length_eq_one_iff.mp (Nat.le_antisymm (Nat.le_of_lt_succ short) one)
      exact ⟨_, rfl, rfl, trivial⟩
  | mac idle => exact ⟨_, rfl, serves_decodeMac _⟩
  | @long t idle two fit =>
    obtain six | short := le_or_gt 6 t.length
    · exact ⟨_, decode_long_data (isDataLen_iff.mpr ⟨six, fit⟩), rfl, six⟩
    · exact ⟨_, decode_long_short two short, rfl, trivial⟩
  | event idle data => exact ⟨_, decode_event data .., serves_decodeEvent (isDataLen_iff.mp data).1 ..⟩
  | case idle data => exact ⟨_, decode_case data .., serves_decodeCase (isDataLen_iff.mp data).1 ..⟩
  | dest idle data => exact ⟨_, decode_dest data, serves_decodeDest (isDataLen_iff.mp data).1⟩
  | accept idle data | acceptInvoke idle data => exact ⟨_, rfl, rfl, packetOk_of_isDataLen data⟩
  | pulled =>
    cases pend : s.tx.txpend with
    | true =>
      rw [ctlPoint_pulled_pending pend]
      exact ⟨_, rfl, rfl, (h.loaded pend).six_le_txTelegram⟩
    | false =>
      rw [ctlPoint_pulled_free pend]
      exact ⟨_, rfl, rfl, trivial⟩
  | budgeted =>
    cases late : s.wret with
    | true =>
      rw [ctlPoint_budgeted_over late]
      exact ⟨_, rfl, rfl, trivial⟩
    | false =>
      rw [ctlPoint_budgeted_within late]
      exact ⟨_, rfl, rfl, trivial⟩
  | write packet phase => exact ⟨_, rfl, rfl, phase⟩
  | invoke | pull | stamped | writeByte | writeBreak | attempted | state | finish => exact ⟨_, rfl, rfl, trivial⟩

/-- The worker fetches an operation of its own, in a call and at the top of `WorkerStep` (R130, R312). -/
theorem workerFetch_serves (h : Inv s) : ∃ i, (workerFetch s).1 = .ok i ∧ Serves .worker s.cfg s.tx i := by
  cases calls : s.wctl with
  | cons c k =>
    rw [workerFetch_cons calls]
    exact WorkerPlace.selects h (calls ▸ (wctlOk_iff s).mp h.worker)
  | nil =>
    obtain raised | notRaised := Bool.eq_false_or_eq_true s.stop
    · rw [workerFetch_stop calls raised]
      exact ⟨_, rfl, rfl, trivial⟩
    · rw [workerFetch_read calls notRaised]
      cases (lineRead s).1 with
      | byte b => exact ⟨_, rfl, serves_decodeRaw ..⟩
      | timeout => exact ⟨_, rfl, rfl, trivial⟩

/-- The decoder agent fetches an operation of its own, in a call and between two packets (R240, R277). -/
theorem decoderFetch_serves (h : Inv s) : ∃ i, (decoderFetch s).1 = .ok i ∧ Serves .decoder s.cfg s.tx i := by
  have place := (dctlOk_iff s).mp h.decoder
  cases calls : s.dctl with
  | nil =>
    rw [decoderFetch_nil calls]
    exact ⟨_, rfl, rfl, trivial⟩
  | cons c k =>
    rw [calls] at place
    rw [decoderFetch_cons calls]
    cases place with
    | dispatch data => exact ⟨_, rfl, rfl, (isDataLen_iff.mp data).1⟩
    | key data => exact ⟨_, decode_key data, serves_decodeKey (isDataLen_iff.mp data).1⟩
    | layout data row long =>
      exact ⟨_, decode_layout (congrArg _ row), serves_layoutInstr (layoutNeed_of_admitted h.config ▸ long)⟩
    | undecoded | guard => exact ⟨_, rfl, rfl, trivial⟩

end

end Sys2Proof.Machine
end

section
/-! Every turn of a state with the invariant answers a next state, but that of a producer whose packet breaks QPush's bounds
(60_exceptions.md R300, 20_memory.md R66). -/

namespace Sys2Proof.Machine

section

variable {s : State}

theorem workerTurn_answers (h : Inv s) : ∃ u, workerTurn s = .next u := by
  cases stopped : s.stopped with
  | true => exact ⟨s, workerTurn_stopped stopped⟩
  | false =>
    obtain ⟨i, fetched, serves⟩ := workerFetch_serves h
    obtain ⟨cs, l, d, left⟩ := workerFetch_snd_eq s
    have guard : GuardMet (workerFetch s).2.cfg (workerFetch s).2.tx i := by rw [left]; exact serves.guard
    obtain ⟨u, next⟩ := exec_answers guard
    exact ⟨u, workerTurn_eq_next.mpr (.inr ⟨stopped, i, fetched, next⟩)⟩

theorem decoderTurn_answers (h : Inv s) : ∃ u, decoderTurn s = .next u := by
  obtain ⟨i, fetched, serves⟩ := decoderFetch_serves h
  obtain ⟨cs, left⟩ := decoderFetch_snd_eq s
  have guard : GuardMet (decoderFetch s).2.cfg (decoderFetch s).2.tx i := by rw [left]; exact serves.guard
  obtain ⟨u, next⟩ := exec_answers guard
  exact ⟨u, runFetched_eq_next.mpr ⟨i, fetched, next⟩⟩

theorem runTurn_answers {t : Turn} (h : Inv s) (admits : ∀ p, t = .produce p → packetOk p = true) :
    ∃ u, runTurn t s = .next u := by
  cases t with
  | worker => exact workerTurn_answers h
  | decoder => exact decoderTurn_answers h
  | produce p => exact ⟨_, if_pos (admits p rfl)⟩
  | advance | stopInput | restart => exact ⟨_, rfl⟩

/-- A producer's turn stores the packet, loses it, or is refused as a broken precondition (R66, U16). -/
theorem runTurn_produce_safe (p : List Byte) : SafeOutcome (runTurn (.produce p) s) := by
  rw [runTurn]
  split <;> trivial

theorem runTurn_safe (h : Inv s) (t : Turn) : SafeOutcome (runTurn t s) := by
  by_cases produces : ∃ p, t = .produce p
  · obtain ⟨p, rfl⟩ := produces
    exact runTurn_produce_safe p
  · obtain ⟨u, next⟩ := runTurn_answers h fun p ht => absurd ⟨p, ht⟩ produces
    rw [next]
    trivial

end

/-- Settles O56: the configuration is admitted, and taking the turn keeps the invariant. -/
theorem stepTotal : Obligations.StepTotal := by
  intro s h
  have taken : step s = runTurn (takeTurn s).1 (takeTurn s).2 := if_pos h.config
  rw [taken]
  exact ⟨runTurn_safe (inv_takeTurn h) _, runTurn_answers (inv_takeTurn h)⟩

end Sys2Proof.Machine
end

section
/-! The two agents share `INQ` alone (60_exceptions.md R306, 20_memory.md R80): what an operation of each leaves of the other's
record. -/

namespace Sys2Proof.Machine

/-! ### The worker's operations -/

/-- What an operation of the worker leaves: the decoder agent's record, the inputs, and each queue but for its own end of it. An
update that leaves these fields as they are keeps it by unfolding alone: `{ h with }`. -/
structure WorkerFrame (s u : State) : Prop where
  decoder : SameDecoder s u
  inq : u.inq = s.inq ∨ ∃ p, u.inq = s.inq ++ [p]
  outq : u.outq = s.outq ∨ ∃ p, s.outq = p :: u.outq
  now : u.now = s.now
  stop : u.stop = s.stop
  pret : u.pret = s.pret

theorem sameDecoder_refl (s : State) : SameDecoder s s := ⟨rfl, rfl, rfl, rfl⟩

namespace WorkerFrame

variable {s u : State}

protected theorem refl (s : State) : WorkerFrame s s where
  decoder := sameDecoder_refl s
  inq := .inl rfl
  outq := .inl rfl
  now := rfl
  stop := rfl
  pret := rfl

theorem macCheck (ok : Bool) (k : MacCause) (v : Byte) (s : State) : WorkerFrame s (macCheck ok k v s) := by
  obtain he | he := macCheck_cases ok k v s
  · rw [he]; exact .refl s
  · rw [he]; exact { WorkerFrame.refl s with }

theorem invokeIfOwn (h : WorkerFrame s u) : WorkerFrame s (invokeIfOwn u) := by
  cases own : ownBus u with
  | true => rw [invokeIfOwn_of_own own]; exact { h with }
  | false => rw [invokeIfOwn_of_other own]; exact h

theorem appendRx (b : Byte) (s : State) : WorkerFrame s (appendRx b s) := by
  obtain ⟨-, he⟩ | ⟨-, -, he⟩ | ⟨-, -, he⟩ := appendRx_cases b s
  · rw [he]; exact { WorkerFrame.refl s with }
  · rw [he]; exact .refl s
  · rw [he]; exact { WorkerFrame.refl s with }

theorem writeFrom (h : WorkerFrame s u) (t : Telegram) (i : Nat) : WorkerFrame s (writeFrom t i u) := by
  obtain ⟨b, -, he⟩ | ⟨-, he⟩ := writeFrom_cases t i u
  · rw [he]; exact { h with }
  · rw [he]; exact { h with }

/-- The worker pushes to `INQ` at its tail, if there is room (R66). -/
theorem pushIn (h : WorkerFrame s u) (same : u.inq = s.inq) (p : List Byte) : WorkerFrame s (pushIn p u) := by
  refine { h with inq := ?_ }
  rw [pushIn_inq, same]
  obtain ⟨-, he⟩ | ⟨-, he⟩ := qPush_cases s.inq p
  · exact .inr ⟨p, by rw [he]⟩
  · exact .inl (by rw [he])

end WorkerFrame

section

variable {s u : State}

theorem execMacAck_workerFrame (h : execMacAck s = .next u) : WorkerFrame s u := by
  cases h
  exact .invokeIfOwn { WorkerFrame.macCheck _ _ _ s with }

theorem execMacAssign_workerFrame {id : DevId} (h : execMacAssign id s = .next u) : WorkerFrame s u := by
  obtain ⟨v, rfl | ⟨e, rfl⟩, ⟨-, rfl⟩ | rfl⟩ := execMacAssign_cases h <;> exact { WorkerFrame.refl _ with }

theorem execDataReadresp_workerFrame {t : Telegram} {m : Bool} (h : execDataReadresp t m s = .next u) : WorkerFrame s u := by
  obtain ⟨-, h⟩ := need_eq_next.mp h
  split at h <;> cases h
  · exact { WorkerFrame.invokeIfOwn (u := setBs .assigned s) { WorkerFrame.refl s with } with }
  · exact { WorkerFrame.refl s with }

/-- The worker takes from the head of `OUTQ` (R67, R201). -/
theorem execTxPull_workerFrame (h : execTxPull s = .next u) : WorkerFrame s u := by
  obtain rfl | ⟨p, q, -, queue, ⟨-, rfl⟩ | rfl⟩ := execTxPull_cases h
  · exact .refl u
  · exact { WorkerFrame.refl s with outq := .inr ⟨p, queue⟩ }
  · exact { WorkerFrame.refl s with outq := .inr ⟨p, queue⟩ }

theorem execTxWrite_workerFrame {t : Telegram} (h : execTxWrite t s = .next u) : WorkerFrame s u := by
  obtain ⟨v, l, d, rfl, hu⟩ := execTxWrite_cases h
  have waited : WorkerFrame s { s with line := l, draws := d } := { WorkerFrame.refl s with }
  obtain rfl | ⟨e, rfl⟩ | rfl | ⟨i, rfl⟩ | ⟨i, -, rfl⟩ := hu
  · exact { waited with }
  · exact { waited with }
  · exact { waited with }
  · exact waited.writeFrom t i
  · exact { waited with }

theorem exec_workerFrame {i : Instr} (worker : agentOf i = .worker) (h : exec i s = .next u) : WorkerFrame s u := by
  cases i with
  | rxEsc | rxMark | rxBadesc | rxBreak | rxBreak0 | rxBadmark | rxTmo | txwByte | txwBreak | tgMac | tgLong | tgShort |
    macRsvd | txInvoke | txAttempt | cksum | sysStop =>
    cases h; exact { WorkerFrame.refl s with }
  | rxData | rxLitff => cases h; exact { WorkerFrame.appendRx _ s with }
  | macAck => exact execMacAck_workerFrame h
  | macRel v => cases h; exact { WorkerFrame.macCheck _ .releaseWithoutAssign v s with }
  | macAssign id => exact execMacAssign_workerFrame h
  | dataEvent | dataAddr | dataPreempt | dataUnassigned | dataWrongsender | dataClassify | dataReadreq | dataWrite |
    dataBcast | dataInwrote | txStamp =>
    obtain ⟨-, h⟩ := need_eq_next.mp h
    cases h; exact { WorkerFrame.refl s with }
  | dataReadresp => exact execDataReadresp_workerFrame h
  | dataAccept t =>
    obtain ⟨-, rfl⟩ := execDataAccept_eq_next h
    exact .pushIn (u := count .rxSuccess s) { WorkerFrame.refl s with } rfl t
  | txPull => exact execTxPull_workerFrame h
  | txBudget => obtain ⟨e, rfl⟩ | rfl := execTxBudget_cases h <;> exact { WorkerFrame.refl s with }
  | txWrite => exact execTxWrite_workerFrame h
  | txResult => obtain rfl | ⟨-, rfl⟩ | ⟨-, rfl⟩ := execTxResult_cases h <;> exact { WorkerFrame.refl s with }
  | txState => obtain ⟨x, rfl⟩ | rfl | rfl := execTxState_cases h <;> exact { WorkerFrame.refl s with }
  | txRelease part => cases part <;> cases h <;> exact { WorkerFrame.refl s with }
  | decRecv | decDispatch | decGuard | decUbaFast | decUbaSlow | decUbaWw | decRcTime | decRcMode | decUbaErr | decPlus |
    decUndecoded | fltOptime | fltStarts | fltExhaust | fltPass =>
    cases worker

end

/-! ### The decoder agent's operations -/

/-- What an operation of the decoder agent leaves: the worker's record, the line and the inputs, and `INQ` but for its head. -/
structure DecoderFrame (s u : State) : Prop where
  worker : SameWorker s u
  inq : u.inq = s.inq ∨ ∃ p, s.inq = p :: u.inq

theorem sameWorker_refl (s : State) : SameWorker s s :=
  ⟨rfl, rfl, rfl, rfl, rfl, rfl, rfl, rfl, rfl, rfl, rfl, rfl, rfl, rfl, rfl, rfl⟩

section

variable {s u : State}

protected theorem DecoderFrame.refl (s : State) : DecoderFrame s s := ⟨sameWorker_refl s, .inl rfl⟩

theorem DecoderFrame.applyFilter (ok : Bool) (f : FilteredField) (v : Int) (s : State) :
    DecoderFrame s (applyFilter ok f v s) := by
  obtain ⟨a, he⟩ := applyFilter_eq ok f v s
  rw [he]; exact { DecoderFrame.refl s with }

/-- The decoder agent takes from the head of `INQ` (R67, R240). -/
theorem execDecRecv_decoderFrame (h : execDecRecv s = .next u) : DecoderFrame s u := by
  obtain rfl | ⟨p, q, queue, rfl | ⟨-, rfl⟩⟩ := execDecRecv_cases h
  · exact .refl u
  · exact { DecoderFrame.refl s with inq := .inr ⟨p, queue⟩ }
  · exact { DecoderFrame.refl s with inq := .inr ⟨p, queue⟩ }

theorem exec_layoutInstr_decoderFrame {t : Telegram} {l : Layout} (h : exec (layoutInstr t l) s = .next u) :
    DecoderFrame s u := by
  rw [exec_layoutInstr] at h
  obtain ⟨-, h⟩ := need_eq_next.mp h
  cases h; exact { DecoderFrame.refl s with }

theorem exec_decoderFrame {i : Instr} (decoder : agentOf i = .decoder) (h : exec i s = .next u) : DecoderFrame s u := by
  cases i with
  | decRecv => exact execDecRecv_decoderFrame h
  | decDispatch t =>
    obtain ⟨-, h⟩ := need_eq_next.mp h
    cases h; exact { DecoderFrame.refl s with }
  | decGuard t n => obtain rfl | ⟨-, rfl⟩ := execDecGuard_cases h <;> exact { DecoderFrame.refl s with }
  | decUbaFast t => exact exec_layoutInstr_decoderFrame (l := .ubaFast) h
  | decUbaSlow t => exact exec_layoutInstr_decoderFrame (l := .ubaSlow) h
  | decUbaWw t => exact exec_layoutInstr_decoderFrame (l := .ubaWw) h
  | decRcTime t => exact exec_layoutInstr_decoderFrame (l := .rcTime) h
  | decRcMode t => exact exec_layoutInstr_decoderFrame (l := .rcMode) h
  | decUbaErr t => exact exec_layoutInstr_decoderFrame (l := .ubaErr) h
  | decPlus t => obtain ⟨c, rfl⟩ | ⟨r, -, rfl⟩ := execDecPlus_cases h <;> exact { DecoderFrame.refl s with }
  | decUndecoded | fltPass => cases h; exact { DecoderFrame.refl s with }
  | fltOptime | fltStarts | fltExhaust => cases h; exact .applyFilter _ _ _ s
  | _ => cases decoder

/-! ### The turns -/

/-- A stopped worker's turn writes nothing; else it is an operation of the worker's own (R312). -/
theorem workerTurn_workerFrame (h : Inv s) (next : workerTurn s = .next u) : WorkerFrame s u := by
  obtain ⟨-, rfl⟩ | ⟨-, i, fetched, executed⟩ := workerTurn_eq_next.mp next
  · exact .refl u
  obtain ⟨j, own, serves⟩ := workerFetch_serves h
  obtain rfl : j = i := Except.ok.inj (own.symm.trans fetched)
  obtain ⟨cs, l, d, left⟩ := workerFetch_snd_eq s
  rw [left] at executed
  exact { exec_workerFrame serves.agent executed with }

theorem decoderTurn_decoderFrame (h : Inv s) (next : decoderTurn s = .next u) : DecoderFrame s u := by
  obtain ⟨i, fetched, executed⟩ := runFetched_eq_next.mp next
  obtain ⟨j, own, serves⟩ := decoderFetch_serves h
  obtain rfl : j = i := Except.ok.inj (own.symm.trans fetched)
  obtain ⟨cs, left⟩ := decoderFetch_snd_eq s
  rw [left] at executed
  exact { exec_decoderFrame serves.agent executed with }

end

/-- Settles O60: each agent's turn is an operation of its own, and taking the turn writes neither agent's record. -/
theorem ownership : Obligations.Ownership := by
  intro s u h next
  obtain ⟨-, next⟩ := step_eq_next.mp next
  have taken := inv_takeTurn h
  obtain ⟨ts, d, left⟩ := takeTurn_snd_eq s
  rw [left] at next taken
  refine ⟨fun worker => ?_, fun decoder => ?_⟩
  · rw [worker] at next
    obtain ⟨same, inq, outq, now, stop, pret⟩ := workerTurn_workerFrame taken next
    exact ⟨same, inq, outq, now, stop, pret⟩
  · rw [decoder] at next
    obtain ⟨same, inq⟩ := decoderTurn_decoderFrame taken next
    exact ⟨same, inq⟩

end Sys2Proof.Machine
end

section
/-! An event and its counter occur together (60_exceptions.md R290, R291). -/

namespace Sys2Proof.Machine

/-! ### The record and the counters together -/

/-- None of the counters that an event has (R291) differs. -/
def SameEventCounts (a b : Stats) : Prop :=
  b.macErr = a.macErr ∧ b.rxShort = a.rxShort ∧ b.rxFormat = a.rxFormat ∧ b.rxSender = a.rxSender ∧ b.txFail = a.txFail

theorem sameEventCounts_refl (st : Stats) : SameEventCounts st st := ⟨rfl, rfl, rfl, rfl, rfl⟩

/-- From a record and counters: nothing new in the record and no event counted, or one event with its counter. It looks at these
two fields alone, so an update of any other keeps it by unfolding. -/
inductive EventCounted (log : List Event) (st : Stats) : List Event → Stats → Prop
  | quiet {st' : Stats} (counts : SameEventCounts st st') : EventCounted log st log st'
  | raised (e : Event) : EventCounted log st (log ++ [e]) ((eventCounter e).elim st (fun c => statsInc c st))

namespace EventCounted

variable {log : List Event} {st : Stats} {s u v : State}

protected theorem refl : EventCounted log st log st := .quiet (sameEventCounts_refl st)

theorem of_same (sameLog : u.wlog = log) (sameStats : u.stats = st) : EventCounted log st u.wlog u.stats := by
  rw [sameLog, sameStats]; exact .refl

theorem macCheck (ok : Bool) (k : MacCause) (v : Byte) (s : State) :
    EventCounted s.wlog s.stats (macCheck ok k v s).wlog (macCheck ok k v s).stats := by
  obtain he | he := macCheck_cases ok k v s
  · rw [he]; exact .refl
  · rw [he]; exact .raised (.macErr k v s.arb.bs)

theorem invokeIfOwn (h : EventCounted log st u.wlog u.stats) :
    EventCounted log st (invokeIfOwn u).wlog (invokeIfOwn u).stats := by
  rw [invokeIfOwn_wlog, invokeIfOwn_stats]; exact h

/-- A discarded byte is a warning without a counter (R131). -/
theorem appendRx (b : Byte) (s : State) : EventCounted s.wlog s.stats (appendRx b s).wlog (appendRx b s).stats := by
  obtain ⟨-, he⟩ | ⟨-, -, he⟩ | ⟨-, -, he⟩ := appendRx_cases b s
  · rw [he]; exact .refl
  · rw [he]; exact .refl
  · rw [he]; exact .raised .framerOverflow

/-- A wait for an echo that fails reports it; no counter goes with that (R205). -/
theorem checkEcho {i : Nat} {x : Byte} (o : ReadOutcome) (waitedLog : u.wlog = log) (waitedStats : u.stats = st)
    (verifiedLog : v.wlog = log) (verifiedStats : v.stats = st) :
    EventCounted log st (checkEcho i x v o u).wlog (checkEcho i x v o u).stats := by
  subst waitedLog waitedStats
  cases raised : u.stop with
  | true => rw [checkEcho_stop raised]; exact .refl
  | false =>
    cases o with
    | timeout => rw [checkEcho_timeout raised]; exact .raised (.txEchoMissing i)
    | byte y =>
      by_cases right : y = x
      · rw [right, checkEcho_right raised]; exact .of_same verifiedLog verifiedStats
      · rw [checkEcho_wrong raised right]; exact .raised (.txEchoMismatch i x y)

end EventCounted

/-! ### The operations -/

section

variable {s u : State}

theorem exec_macAssign_eventCounted {id : DevId} (h : exec (.macAssign id) s = .next u) :
    EventCounted s.wlog s.stats u.wlog u.stats := by
  have checked := EventCounted.macCheck (s.arb.bs == .released || s.arb.bs == .assigned) .assignInBadState
    (0x80 ||| id.setWidth 8) s
  simp only [exec, execMacAssign] at h
  split at h <;> cases h <;> exact checked

theorem exec_dataReadresp_eventCounted {t : Telegram} {m : Bool} (h : exec (.dataReadresp t m) s = .next u) :
    EventCounted s.wlog s.stats u.wlog u.stats := by
  obtain ⟨-, h⟩ := need_eq_next.mp h
  split at h <;> cases h
  · exact EventCounted.invokeIfOwn (u := setBs .assigned s) .refl
  · exact .raised (.rxFormat (.readHeaderMismatch s.arb.rdexp) (headerOf t))

theorem exec_txPull_eventCounted (h : exec .txPull s = .next u) : EventCounted s.wlog s.stats u.wlog u.stats := by
  obtain rfl | ⟨p, q, -, -, ⟨-, rfl⟩ | rfl⟩ := execTxPull_cases h
  · exact .refl
  · exact .refl
  · exact .raised (.txBadPacket p.length)

theorem exec_txBudget_eventCounted (h : exec .txBudget s = .next u) : EventCounted s.wlog s.stats u.wlog u.stats := by
  obtain within | late := le_or_gt (s.now - s.tx.acqTime) 200
  · rw [exec_txBudget_within within] at h
    cases h; exact .refl
  · rw [exec_txBudget_over late] at h
    cases h; exact .raised (.txBudget (elapsed s))

/-- The counter of a dropped telegram goes with its event, and no counter with a retry (R206). -/
theorem exec_txResult_eventCounted {ok : Bool} (h : exec (.txResult ok) s = .next u) :
    EventCounted s.wlog s.stats u.wlog u.stats := by
  obtain rfl | ⟨-, rfl⟩ | ⟨-, rfl⟩ := execTxResult_cases h
  · exact .refl
  · exact .raised (.txDropped (headerOf (txTelegram s)))
  · exact .refl

/-- A wait reports nothing by itself. -/
theorem events_of_lineRead {o : ReadOutcome} (read : lineRead s = (o, u)) : u.wlog = s.wlog ∧ u.stats = s.stats := by
  rw [← lineRead_wlog s, ← lineRead_stats s, read]
  exact ⟨rfl, rfl⟩

theorem exec_txWrite_eventCounted {t : Telegram} (h : exec (.txWrite t) s = .next u) :
    EventCounted s.wlog s.stats u.wlog u.stats := by
  cases phase : s.tx.txp with
  | idle =>
    rw [exec_txWrite_idle phase] at h
    cases h; exact .of_same (by simp) (by simp)
  | echo i =>
    rcases read : lineRead s with ⟨o, v⟩
    obtain ⟨log, stats⟩ := events_of_lineRead read
    cases byte : t[i]? with
    | none =>
      have refused : exec (.txWrite t) s = .refused .badPhase := by simp only [exec, execTxWrite, phase, byte]
      rw [refused] at h
      cases h
    | some b =>
      rw [exec_txWrite_echo phase byte read] at h
      cases h
      refine .checkEcho o log stats ?_ ?_
      · split <;> simp [log]
      · split <;> simp [stats]
  | echo2 i =>
    rcases read : lineRead s with ⟨o, v⟩
    obtain ⟨log, stats⟩ := events_of_lineRead read
    rw [exec_txWrite_echo2 phase read] at h
    cases h
    exact .checkEcho o log stats (by simp [log]) (by simp [stats])
  | act =>
    obtain ⟨l, d, left⟩ := lineAvail_snd_eq s
    have avail : lineAvail s = ((lineAvail s).1, { s with line := l, draws := d }) := Prod.ext rfl left
    rw [exec_txWrite_act phase avail] at h
    cases h
    split
    · exact .refl
    · split
      · exact .refl
      · exact .raised .txNoBreakAck

/-- The decoder agent's operations write neither (R306). -/
theorem DecoderFrame.eventCounted (h : DecoderFrame s u) : EventCounted s.wlog s.stats u.wlog u.stats := by
  obtain ⟨-, -, -, stats, -, -, -, -, wlog, -⟩ := h.worker
  exact .of_same wlog stats

theorem exec_eventCounted {i : Instr} (h : exec i s = .next u) : EventCounted s.wlog s.stats u.wlog u.stats := by
  cases i with
  | rxEsc | rxMark | rxBadesc | rxBreak | rxBreak0 | rxBadmark | rxTmo | txwByte | txwBreak | tgMac | txInvoke | cksum |
    sysStop =>
    cases h; exact .refl
  | tgLong | txAttempt => cases h; exact .quiet ⟨rfl, rfl, rfl, rfl, rfl⟩
  | rxData | rxLitff => cases h; exact .appendRx _ s
  | tgShort t => cases h; exact .raised (.rxShort t.length)
  | macAck => cases h; exact .invokeIfOwn (u := setBs .assigned _) (.macCheck _ .ackWithoutWrite macAckByte s)
  | macRel v => cases h; exact .macCheck _ .releaseWithoutAssign v s
  | macAssign id => exact exec_macAssign_eventCounted h
  | macRsvd v => cases h; exact .raised (.macErr .reservedValue v s.arb.bs)
  | dataEvent | dataPreempt | dataClassify | dataReadreq | dataWrite | dataBcast | txStamp =>
    obtain ⟨-, h⟩ := need_eq_next.mp h
    cases h; exact .refl
  | dataAddr t =>
    obtain ⟨-, h⟩ := need_eq_next.mp h
    cases h; exact .raised (.rxFormat .addressRange (headerOf t))
  | dataUnassigned t =>
    obtain ⟨-, h⟩ := need_eq_next.mp h
    cases h; exact .raised (.rxUnassigned (byteAt t 0))
  | dataWrongsender t =>
    obtain ⟨-, h⟩ := need_eq_next.mp h
    cases h; exact .raised (.rxWrongSender (byteAt t 0) s.arb.polled)
  | dataInwrote t =>
    obtain ⟨-, h⟩ := need_eq_next.mp h
    cases h; exact .raised (.rxUnexpected (byteAt t 0))
  | dataReadresp => exact exec_dataReadresp_eventCounted h
  | dataAccept t =>
    obtain ⟨-, rfl⟩ := execDataAccept_eq_next h
    exact .quiet ⟨rfl, rfl, rfl, rfl, rfl⟩
  | txPull => exact exec_txPull_eventCounted h
  | txBudget => exact exec_txBudget_eventCounted h
  | txWrite => exact exec_txWrite_eventCounted h
  | txResult => exact exec_txResult_eventCounted h
  | txState => obtain ⟨x, rfl⟩ | rfl | rfl := execTxState_cases h <;> exact .refl
  | txRelease part => cases part <;> cases h <;> exact .refl
  | decRecv | decDispatch | decGuard | decUbaFast | decUbaSlow | decUbaWw | decRcTime | decRcMode | decUbaErr | decPlus |
    decUndecoded | fltOptime | fltStarts | fltExhaust | fltPass =>
    exact (exec_decoderFrame rfl h).eventCounted

end

/-- Settles O52: the record and the counters of the next state are one of the two cases of `EventCounted`. -/
theorem eventsCount : Obligations.EventsCount := by
  intro i s u h
  have counted := exec_eventCounted h
  generalize u.wlog = log, u.stats = st at counted ⊢
  cases counted with
  | quiet counts => exact .inl ⟨rfl, counts⟩
  | raised e => exact .inr ⟨e, rfl, rfl⟩

end Sys2Proof.Machine
end

section
/-! The cooperative stop and the table of the events (60_exceptions.md R291, R312). -/

namespace Sys2Proof.Machine

/-- Settles O49: the operation's one write; a stopped worker's turn is spent, and `DEC.RECV` goes on with the packet (R240). -/
theorem stopHaltsTheWorker : Obligations.StopHaltsTheWorker := by
  intro s
  refine ⟨rfl, fun ts admitted stopped turn => ?worker, fun ts p q admitted _ turn idle queue six => ?decoder⟩
  case worker => exact (step_worker admitted turn).trans (workerTurn_stopped stopped)
  case decoder =>
    have received := exec_decRecv_packet (s := { s with turns := ts }) queue six
    rw [step_decoderIdle admitted turn idle, received, callD, idle]

/-! ### The table of the events (R291) -/

section

variable (e : Event)

/-- The code tells the events of the receive path apart. -/
theorem eventCode_receive : (eventCode e = 0x01 ↔ e = .framerOverflow) ∧
    (eventCode e = 0x10 ↔ ∃ c v b, e = .macErr c v b) ∧
    (eventCode e = 0x20 ↔ ∃ n, e = .rxShort n) ∧ (eventCode e = 0x21 ↔ ∃ c h, e = .rxFormat c h) ∧
    (eventCode e = 0x22 ↔ ∃ b, e = .rxUnassigned b) ∧ (eventCode e = 0x23 ↔ ∃ b p, e = .rxWrongSender b p) ∧
    (eventCode e = 0x24 ↔ ∃ b, e = .rxUnexpected b) := by
  cases e <;> simp [eventCode]

/-- The code tells the events of the Transmit Engine apart. -/
theorem eventCode_transmit : (eventCode e = 0x30 ↔ ∃ n, e = .txBadPacket n) ∧
    (eventCode e = 0x31 ↔ ∃ n, e = .txBudget n) ∧
    (eventCode e = 0x32 ↔ ∃ i, e = .txEchoMissing i) ∧ (eventCode e = 0x33 ↔ ∃ i a b, e = .txEchoMismatch i a b) ∧
    (eventCode e = 0x34 ↔ e = .txNoBreakAck) ∧ (eventCode e = 0x35 ↔ ∃ h, e = .txDropped h) := by
  cases e <;> simp [eventCode]

/-- The code tells the decoder agent's events apart. -/
theorem eventCode_decoder : (eventCode e = 0x40 ↔ ∃ c t, e = .decUndecoded c t) ∧
    (eventCode e = 0x41 ↔ ∃ f v, e = .decFilterReject f v) := by
  cases e <;> simp [eventCode]

theorem eventSeverity_eq_warning_iff :
    eventSeverity e = .warning ↔ eventCode e = 0x01 ∨ eventCode e = 0x31 ∨ eventCode e = 0x41 := by
  cases e <;> simp [eventSeverity, eventCode]

/-- Each counter is that of its rows of the table. -/
theorem eventCounter_eq_some_iff : (eventCounter e = some .macErr ↔ eventCode e = 0x10) ∧
    (eventCounter e = some .rxShort ↔ eventCode e = 0x20) ∧ (eventCounter e = some .rxFormat ↔ eventCode e = 0x21) ∧
    (eventCounter e = some .rxSender ↔ eventCode e = 0x22 ∨ eventCode e = 0x23 ∨ eventCode e = 0x24) ∧
    (eventCounter e = some .txFail ↔ eventCode e = 0x35) := by
  cases e <;> simp [eventCounter, eventCode]

theorem eventCounter_eq_none_iff : eventCounter e = none ↔
    eventCode e = 0x01 ∨ eventCode e = 0x30 ∨ eventCode e = 0x31 ∨ eventCode e = 0x32 ∨ eventCode e = 0x33 ∨ eventCode e = 0x34 ∨ eventCode e = 0x40 ∨ eventCode e = 0x41 := by
  cases e <;> simp [eventCounter, eventCode]

/-- Three events have a cause sub-code, whatever the cause. -/
theorem eventCause_eq_none_iff :
    eventCause e = none ↔ eventCode e ≠ 0x10 ∧ eventCode e ≠ 0x21 ∧ eventCode e ≠ 0x40 := by
  cases e with
  | macErr cause | rxFormat cause | decUndecoded cause => cases cause <;> simp [eventCause, eventCode]
  | _ => simp [eventCause, eventCode]

end

/-- Settles O51: the table column by column; the sub-codes are the ones `eventCause` is written with. -/
theorem eventTable : Obligations.EventTable := by
  intro e
  obtain ⟨overflow, mac, short, format, unassigned, wrongSender, unexpected⟩ := eventCode_receive e
  obtain ⟨badPacket, budget, missing, mismatch, noAck, dropped⟩ := eventCode_transmit e
  obtain ⟨undecoded, reject⟩ := eventCode_decoder e
  obtain ⟨countMac, countShort, countFormat, countSender, countFail⟩ := eventCounter_eq_some_iff e
  exact ⟨overflow, mac, short, format, unassigned, wrongSender, unexpected, badPacket, budget, missing, mismatch, noAck,
    dropped, undecoded, reject, eventSeverity_eq_warning_iff e, countMac, countShort, countFormat, countSender, countFail,
    eventCounter_eq_none_iff e, fun _ _ => ⟨rfl, rfl, rfl, rfl⟩, fun _ _ => ⟨rfl, rfl⟩,
    fun _ _ => ⟨rfl, rfl, rfl, rfl⟩, eventCause_eq_none_iff e⟩

end Sys2Proof.Machine
end

section
/-! What the environment does between two operations (70_reset_and_hazards.md R352, R331). -/

namespace Sys2Proof.Machine

/-- With an admitted configuration the step is what the turn to come does (U23). -/
theorem step_admitted {s : State} (admitted : configOk s.cfg = true) :
    step s = runTurn (takeTurn s).1 (takeTurn s).2 := if_pos admitted

theorem step_turn {s : State} {t : Turn} {ts : List Turn} (admitted : configOk s.cfg = true) (turn : s.turns = t :: ts) :
    step s = runTurn t { s with turns := ts } := by
  have taken : takeTurn s = (t, { s with turns := ts }) := by rw [takeTurn, turn]
  rw [step_admitted admitted, taken]

/-- A push to `OUTQ`: the packet is stored if there is room and lost otherwise, and the producer sees which (R66). -/
theorem pushOut_eq (p : List Byte) (s : State) : pushOut p s =
    { s with outq := if s.outq.length < 32 then s.outq ++ [p] else s.outq, pret := decide (s.outq.length < 32) } := by
  rw [pushOut, qPush_fst, qPush_snd]

theorem runTurn_produce {s : State} {p : List Byte} (packet : packetOk p = true) :
    runTurn (.produce p) s = .next (pushOut p s) := if_pos packet

/-- A packet outside the bounds of `QPush` is refused (R66, U16). -/
theorem runTurn_produce_badPacket {s : State} {p : List Byte} (bad : p.length = 0 ∨ 32 < p.length) :
    runTurn (.produce p) s = .refused .badPacket := by
  refine if_neg fun packet => ?_
  have bounds := packetOk_iff.mp packet
  omega

/-- Settles O7, one clause for each move. -/
theorem environmentMoves : Obligations.EnvironmentMoves := by
  intro s ts admitted
  refine ⟨fun d turn => step_turn admitted turn, fun p turn lower upper => ?stored, fun p turn bad => ?bad,
    fun b turn => step_turn admitted turn, fun turn => step_turn admitted turn⟩
  case stored => rw [step_turn admitted turn, runTurn_produce (packetOk_iff.mpr ⟨lower, upper⟩), pushOut_eq]
  case bad => rw [step_turn admitted turn, runTurn_produce_badPacket bad]

end Sys2Proof.Machine
end

section
/-! The configurations that R336 admits are those the model's check lets through, and nothing but that check refuses with
`badConfig` (70_reset_and_hazards.md R336, U20). -/

namespace Sys2Proof.Machine

/-! ### The constraints of R336, one by one -/

theorem idInRange_iff {b : Byte} : idInRange b = true ↔ 8 ≤ b.toNat ∧ b.toNat ≤ 127 := by
  rw [idInRange, Bool.and_eq_true, decide_eq_true_eq, decide_eq_true_eq, BitVec.le_def, BitVec.le_def]
  rfl

theorem errOffOk_iff {k : Nat} : errOffOk k = true ↔ 4 ≤ k ∧ k ≤ 11 := by simp [errOffOk]

/-- The two bytes of the exhaust field stay off the fields of `UBA_SLOW` at 4 and 12..17. -/
theorem exhaustOffOk_iff {k : Nat} : exhaustOffOk k = true ↔
    4 ≤ k ∧ k ≤ 29 ∧ ∀ b, (b = k ∨ b = k + 1) → b ≠ 4 ∧ (b < 12 ∨ 17 < b) := by
  simp only [exhaustOffOk, Bool.and_eq_true, Bool.or_eq_true, decide_eq_true_eq, forall_eq_or_imp, forall_eq]
  omega

/-- Two destination patterns overlap when one destination byte matches both; two write patterns share the broadcast. -/
theorem dstOverlap_iff {p q : DstPattern} :
    dstOverlap p q = true ↔ ∃ b, dstMatches p b = true ∧ dstMatches q b = true := by
  cases p with
  | exact a =>
    cases q with
    | exact b =>
      simp only [dstOverlap, dstMatches, beq_iff_eq, exists_eq_left']
      exact eq_comm
    | anyWrite => simp only [dstOverlap, dstMatches, beq_iff_eq, exists_eq_left']
  | anyWrite =>
    cases q with
    | exact b => simp only [dstOverlap, dstMatches, beq_iff_eq, exists_eq_right']
    | anyWrite => exact iff_of_true rfl ⟨broadcastId, by decide⟩

theorem rowsOverlap_iff {r q : Row} : rowsOverlap r q = true ↔
    r.src = q.src ∧ r.typ = q.typ ∧ ∃ b, dstMatches r.dst b = true ∧ dstMatches q.dst b = true := by
  simp only [rowsOverlap, Bool.and_eq_true, beq_iff_eq, dstOverlap_iff, and_assoc]

theorem rowsDistinct_iff {rows : List Row} :
    rowsDistinct rows = true ↔ rows.Pairwise fun r q => ¬ rowsOverlap r q = true := by
  induction rows with
  | nil => exact iff_of_true rfl .nil
  | cons r rows ih => simp [rowsDistinct, ih]

/-- The model's check is R336: the constraints agree one by one, the exhaust offset's where it is set. -/
theorem configOk_iff {c : Cfg} : configOk c = true ↔ ConfigAdmitted c := by
  cases exhaust : c.slowOffExhaust <;>
    simp [configOk, ConfigAdmitted, exhaust, idInRange_iff, errOffOk_iff, exhaustOffOk_iff, rowsDistinct_iff,
      rowsOverlap_iff, and_assoc]

/-! ### The refusals of an operation -/

/-- `TX.WRITE` answers, but where it waits for the echo of a byte its telegram does not have (R35, log 11). -/
theorem exec_txWrite_outcome (t : Telegram) (s : State) :
    (∃ u, exec (.txWrite t) s = .next u) ∨ exec (.txWrite t) s = .refused .badPhase := by
  cases phase : s.tx.txp with
  | idle => exact .inl ⟨_, exec_txWrite_idle phase⟩
  | echo i =>
    cases byte : t[i]? with
    | none => exact .inr (by simp only [exec, execTxWrite, phase, byte])
    | some b => exact .inl ⟨_, exec_txWrite_echo phase byte rfl⟩
  | echo2 i => exact .inl ⟨_, exec_txWrite_echo2 phase rfl⟩
  | act => exact .inl ⟨_, exec_txWrite_act phase rfl⟩

/-- An operation answers, faults on a telegram too short for its rule, or refuses a packet or a phase (log 10, log 11). -/
theorem exec_outcome (i : Instr) (s : State) : (∃ u, exec i s = .next u) ∨ exec i s = .fault .telegramIndex ∨
    exec i s = .refused .badPacket ∨ exec i s = .refused .badPhase := by
  by_cases met : GuardMet s.cfg s.tx i
  · exact .inl (exec_answers met)
  cases i with
  | dataEvent | dataAddr | dataPreempt | dataUnassigned | dataWrongsender | dataClassify | dataReadreq | dataWrite |
    dataBcast | dataReadresp | dataInwrote | txStamp | decDispatch | decPlus | decUbaFast | decUbaSlow | decUbaWw | decRcTime |
    decRcMode | decUbaErr =>
    exact .inr (.inl (need_of_lt _ (Nat.lt_of_not_le met)))
  | dataAccept => exact .inr (.inr (.inl (if_neg met)))
  | txWrite t => exact (exec_txWrite_outcome t s).imp_right fun badPhase => .inr (.inr badPhase)
  | _ => exact absurd trivial met

/-- No operation refuses a configuration. -/
theorem exec_ne_badConfig (i : Instr) (s : State) : exec i s ≠ .refused .badConfig := by
  obtain ⟨u, outcome⟩ | outcome | outcome | outcome := exec_outcome i s <;> rw [outcome] <;> rintro ⟨⟩

theorem runFetched_ne_badConfig (f : Except Reject Instr × State) : runFetched f ≠ .refused .badConfig := by
  rcases f with ⟨_ | i, s⟩
  · rintro ⟨⟩
  · exact exec_ne_badConfig i s

/-- No turn refuses a configuration. -/
theorem runTurn_ne_badConfig (t : Turn) (s : State) : runTurn t s ≠ .refused .badConfig := by
  cases t with
  | worker =>
    rw [runTurn, workerTurn]
    split
    · rintro ⟨⟩
    · exact runFetched_ne_badConfig _
  | decoder => exact runFetched_ne_badConfig _
  | produce p =>
    rw [runTurn]
    split <;> rintro ⟨⟩
  | advance | stopInput | restart => rintro ⟨⟩

/-- Settles O8: the check is the only source of `badConfig`, and it is R336. -/
theorem badConfigRefused : Obligations.BadConfigRefused := by
  intro s
  refine ⟨fun excluded => if_neg fun ok => excluded (configOk_iff.mp ok), fun admitted => ?_⟩
  rw [step_admitted (configOk_iff.mpr admitted)]
  exact runTurn_ne_badConfig _ _

end Sys2Proof.Machine
end
